-- ==== Sys2Proof/Word.lean ====
section
/-! DEFINITION. The units the block moves (00_scope.md R12): bytes, 16-bit values, the 64-bit command word.
Every value is unsigned, and bit 0 is the least significant bit. -/

namespace Sys2Proof

/-- A byte: 8 bits (R12). -/
abbrev Byte := BitVec 8

/-- A 16-bit unsigned value: a register address, a data word, a CRC, a count (R12). -/
abbrev Half := BitVec 16

/-- The 64-bit command word (30_encoding.md R49). -/
abbrev Word := BitVec 64

/-- A handler identity: 16 bits, chosen by the host; 0 marks an empty slot (10_state.md R25). -/
abbrev Handler := BitVec 16

/-- One Bool as one bit: 1 for true. -/
abbrev bit (b : Bool) : BitVec 1 := BitVec.ofBool b

end Sys2Proof
end

