-- ==== Sys2Proof/Syntax.lean ====
section
/-! DEFINITION. The nine commands of the TFB command set, revision 1 (30_encoding.md R52), as syntax: one
constructor for each row of spec/opcode_table.json, with the operand fields of its format (R50, R51). -/

namespace Sys2Proof

/-- The operand of INIT and the state element `role` (10_state.md R18). -/
inductive Role where
  | master
  | slave
  deriving DecidableEq, Repr

/-- The encoding of a role: 0 = MASTER, 1 = SLAVE (R18, R50). -/
def Role.bit : Role → BitVec 1
  | .master => 0
  | .slave => 1

/-- The role a bit stands for (R18, R51). -/
def Role.ofBit (b : BitVec 1) : Role := if b = 0 then .master else .slave

/-- One command with its operands. Pseudo-commands (R60) have no constructor: they expand to these. -/
inductive Instr where
  /-- INIT role: format I (R96). -/
  | init (role : Role)
  /-- DEINIT: format N (R97). -/
  | deinit
  /-- SEND addr, func, reg, data: format S (R69). -/
  | send (addr func : Byte) (reg data : Half)
  /-- ACCEPT_BYTE b: format B (R73). -/
  | acceptByte (b : Byte)
  /-- ACCEPT b0, ..., b(n-1): format A; the list is the n bytes in order (R74). -/
  | accept (bytes : List Byte)
  /-- RESET_PARSER: format N (R75). -/
  | resetParser
  /-- TICK: format N (R86). -/
  | tick
  /-- ADD_LISTENER h: format L (R90). -/
  | addListener (h : Handler)
  /-- REMOVE_LISTENER h: format L (R91). -/
  | removeListener (h : Handler)
  deriving DecidableEq, Repr

/-- The opcode, bits 63:56 of the word (R49, R52). -/
def Instr.opcode : Instr → Byte
  | .init _ => 0x01
  | .deinit => 0x02
  | .send _ _ _ _ => 0x10
  | .acceptByte _ => 0x20
  | .accept _ => 0x21
  | .resetParser => 0x22
  | .tick => 0x30
  | .addListener _ => 0x40
  | .removeListener _ => 0x41

end Sys2Proof
end

