-- ==== Sys2Proof/WellFormed.lean ====
section
/-! DEFINITION. Which commands as syntax have a command word (30_encoding.md R50, R53, R59). -/

namespace Sys2Proof

/-- The one limit the operand types do not carry already: an ACCEPT holds at most 6 bytes (R50, R53 (c)). Every
value of every other operand is legal; ADD_LISTENER 0 and REMOVE_LISTENER 0 encode and are reported when run (R59). -/
def Instr.wellFormed : Instr → Bool
  | .init _ => true
  | .deinit => true
  | .send _ _ _ _ => true
  | .acceptByte _ => true
  | .accept bytes => decide (bytes.length ≤ 6)
  | .resetParser => true
  | .tick => true
  | .addListener _ => true
  | .removeListener _ => true

end Sys2Proof
end

