-- ==== Sys2Proof/Decode.lean ====
section
/-! DEFINITION. Decoding a command word (30_encoding.md R49 to R54), total on all 2^64 words: `none` is an illegal
word (R53). The decoder looks at the word only, never at the state (R54). The encoder follows it. -/

namespace Sys2Proof

/-- The opcode field w[63:56] (R49). -/
def opcodeField (w : Word) : Byte := w.extractLsb' 56 8

/-- Format N: no operand, bits 55:0 reserved (R50). -/
def decodeN (i : Instr) (w : Word) : Option Instr :=
  if w.extractLsb' 0 56 = 0#56 then some i else none

/-- Format I: bits 55:1 reserved, bit 0 the role (R50). -/
def decodeI (w : Word) : Option Instr :=
  if w.extractLsb' 1 55 = 0#55 then some (.init (Role.ofBit (w.extractLsb' 0 1))) else none

/-- Format S: addr 55:48, func 47:40, reg 39:24, data 23:8, bits 7:0 reserved (R50). -/
def decodeS (w : Word) : Option Instr :=
  if w.extractLsb' 0 8 = 0#8 then
    some (.send (w.extractLsb' 48 8) (w.extractLsb' 40 8) (w.extractLsb' 24 16) (w.extractLsb' 8 16))
  else none

/-- Format B: bits 55:8 reserved, bits 7:0 the byte (R50). -/
def decodeB (w : Word) : Option Instr :=
  if w.extractLsb' 8 48 = 0#48 then some (.acceptByte (w.extractLsb' 0 8)) else none

/-- The six byte fields of format A, b0 first: bk = w[47-8k : 40-8k] (R51). -/
def byteFields (w : Word) : List Byte :=
  [w.extractLsb' 40 8, w.extractLsb' 32 8, w.extractLsb' 24 8, w.extractLsb' 16 8, w.extractLsb' 8 8,
    w.extractLsb' 0 8]

/-- Format A: bits 55:51 reserved, n = w[50:48] at most 6, the byte fields from bn on all 0 (R50, R53 (b) to (d)). -/
def decodeA (w : Word) : Option Instr :=
  let n := (w.extractLsb' 48 3).toNat
  if w.extractLsb' 51 5 = 0#5 ∧ n ≤ 6 ∧ (byteFields w).drop n = List.replicate (6 - n) 0#8 then
    some (.accept ((byteFields w).take n))
  else none

/-- Format L: bits 55:16 reserved, bits 15:0 the handler identity (R50). -/
def decodeL (mk : Handler → Instr) (w : Word) : Option Instr :=
  if w.extractLsb' 16 40 = 0#40 then some (mk (w.extractLsb' 0 16)) else none

/-- The opcode map (R52): every other opcode value, 0x00 included, is reserved (R53 (a)). -/
def decode (w : Word) : Option Instr :=
  if opcodeField w = 0x01#8 then decodeI w
  else if opcodeField w = 0x02#8 then decodeN .deinit w
  else if opcodeField w = 0x10#8 then decodeS w
  else if opcodeField w = 0x20#8 then decodeB w
  else if opcodeField w = 0x21#8 then decodeA w
  else if opcodeField w = 0x22#8 then decodeN .resetParser w
  else if opcodeField w = 0x30#8 then decodeN .tick w
  else if opcodeField w = 0x40#8 then decodeL .addListener w
  else if opcodeField w = 0x41#8 then decodeL .removeListener w
  else none

/-- The word of a command, most significant field first (R49 to R52): reserved bits and the byte fields an ACCEPT
does not use are 0 (R53, R59). -/
def encode : Instr → Word
  | .init role => (0x01#8 ++ 0#55 ++ role.bit : BitVec (8 + 55 + 1))
  | .deinit => (0x02#8 ++ 0#56 : BitVec (8 + 56))
  | .send addr func reg data => (0x10#8 ++ addr ++ func ++ reg ++ data ++ 0#8 : BitVec (8 + 8 + 8 + 16 + 16 + 8))
  | .acceptByte b => (0x20#8 ++ 0#48 ++ b : BitVec (8 + 48 + 8))
  | .accept bs => (0x21#8 ++ 0#5 ++ BitVec.ofNat 3 bs.length ++ bs.getD 0 0 ++ bs.getD 1 0 ++ bs.getD 2 0 ++
      bs.getD 3 0 ++ bs.getD 4 0 ++ bs.getD 5 0 : BitVec (8 + 5 + 3 + 8 + 8 + 8 + 8 + 8 + 8))
  | .resetParser => (0x22#8 ++ 0#56 : BitVec (8 + 56))
  | .tick => (0x30#8 ++ 0#56 : BitVec (8 + 56))
  | .addListener h => (0x40#8 ++ 0#40 ++ h : BitVec (8 + 40 + 16))
  | .removeListener h => (0x41#8 ++ 0#40 ++ h : BitVec (8 + 40 + 16))

/-- One row of spec/opcode_table.json. -/
structure OpcodeRow where
  mnemonic : String
  pattern : Word
  mask : Word
  deriving DecidableEq, Repr

/-- spec/opcode_table.json, row for row (its "match" and "mask"). The decoder above does not read it: it is the
second statement of the encoding that the decoder is held against. -/
def opcodeTable : List OpcodeRow :=
  [⟨"INIT", 0x0100000000000000, 0xFFFFFFFFFFFFFFFE⟩,
   ⟨"DEINIT", 0x0200000000000000, 0xFFFFFFFFFFFFFFFF⟩,
   ⟨"SEND", 0x1000000000000000, 0xFF000000000000FF⟩,
   ⟨"ACCEPT_BYTE", 0x2000000000000000, 0xFFFFFFFFFFFFFF00⟩,
   ⟨"ACCEPT", 0x2100000000000000, 0xFFF8000000000000⟩,
   ⟨"RESET_PARSER", 0x2200000000000000, 0xFFFFFFFFFFFFFFFF⟩,
   ⟨"TICK", 0x3000000000000000, 0xFFFFFFFFFFFFFFFF⟩,
   ⟨"ADD_LISTENER", 0x4000000000000000, 0xFFFFFFFFFFFF0000⟩,
   ⟨"REMOVE_LISTENER", 0x4100000000000000, 0xFFFFFFFFFFFF0000⟩]

/-- The command the decoder reads from a word whose bits are `w`, of which the lowest `nbits` count: one command is
one 64-bit word (R49), so a wider number is no command. -/
def decodeTableWord (nbits w : Nat) : Option Instr :=
  if w % 2 ^ nbits < 2 ^ 64 then decode (BitVec.ofNat 64 (w % 2 ^ nbits)) else none

end Sys2Proof
end

