-- ==== Sys2Proof/Config.lean ====
section
/-! DEFINITION. The implementation parameters (00_scope.md R6 to R11). The spec leaves each one OPEN and has the
model take it as an argument, so they are data: every definition and every statement is for all of them. -/

namespace Sys2Proof

/-- TICK_FINALIZE: which TICK ends a window whose idle counter has reached TIMEOUT_TICKS (R10). -/
inductive TickFinalize where
  /-- ELSE_BRANCH, the default: a TICK increments the counter or finalizes, never both. -/
  | elseBranch
  /-- SAME_TICK: a TICK that brings the counter to TIMEOUT_TICKS also finalizes. -/
  | sameTick
  deriving DecidableEq, Repr

/-- ACCEPT_IN_IDLE: what an inbound byte does while the state is IDLE (R11). -/
inductive AcceptInIdle where
  /-- APPEND, the default: as in WAIT. -/
  | append
  /-- DROP: the byte is ignored and no state changes. -/
  | drop
  deriving DecidableEq, Repr

/-- The six parameters of one block. The ranges 0 to 65535 of RX_CAP and TIMEOUT_TICKS and the upper bound 255 of
MAX_LISTENERS are the widths of the fields; the two lower bounds are `Params.valid`. -/
structure Params where
  /-- RX_CAP: the capacity of the receive buffer in bytes, 0 to 65535 (R6). -/
  rxCap : Half
  /-- MAX_LISTENERS: the number of listener slots, 1 to 255 (R7). -/
  maxListeners : BitVec 8
  /-- TIMEOUT_TICKS: the idle-timeout tick threshold, 0 to 65535 (R8). -/
  timeoutTicks : Half
  /-- TX_BUF_CAP: the send-buffer size in bytes, at least 8; no other rule reads it (R9). -/
  txBufCap : Nat
  tickFinalize : TickFinalize
  acceptInIdle : AcceptInIdle
  deriving DecidableEq, Repr

/-- The configurations the spec has an instance for: MAX_LISTENERS >= 1 (R7) and TX_BUF_CAP >= 8 (R9). -/
def Params.valid (p : Params) : Bool := decide (1 ≤ p.maxListeners.toNat) && decide (8 ≤ p.txBufCap)

/-- The spec's example values and its two defaults (R6 to R11). DESIGN CHOICE (log 1), unsafe: the spec fixes no
value; they stand in `State.reset` only so that the machine can be run, and no statement rests on them. -/
def Params.exampleValues : Params where
  rxCap := 16
  maxListeners := 4
  timeoutTicks := 3
  txBufCap := 8
  tickFinalize := .elseBranch
  acceptInIdle := .append

end Sys2Proof
end

