-- ==== Sys2Proof/Machine/State.lean ====
section
/-! DEFINITION. The state of one block (10_state.md R15 to R31) as plain data, with the inputs and outputs of a step
(00_scope.md R14), the reasons a step can stop, and the state after power-on reset (R30, 70_reset_and_hazards.md R121).
The block has no address space (20_memory.md R32), so there is no memory list: its storage is the receive buffer, the
stored Request and the slots. -/

namespace Sys2Proof.Machine

/-- The element `state` (10_state.md R19): 0 = IDLE, 1 = WAIT (WaitingForResponse). -/
inductive EngineMode where
  | idle
  | wait
  deriving DecidableEq, Repr

/-- The encoding of the element `state` (R19). -/
def EngineMode.bit : EngineMode → BitVec 1
  | .idle => 0
  | .wait => 1

/-- The stored Request `req` (10_state.md R22). -/
structure Request where
  addr : Byte
  func : Byte
  reg : Half
  data : Half
  deriving DecidableEq, Repr

/-- The field `timeout_kind` of a Response (43_decode_tick.md R78, R80, R81). -/
inductive TimeoutKind where
  | none
  | shortFrame
  | checksumMismatch
  deriving DecidableEq, Repr

/-- The two bits of `timeout_kind`; the value 3 is never produced (30_encoding.md R58, R78). -/
def TimeoutKind.code : TimeoutKind → BitVec 2
  | .none => 0
  | .shortFrame => 1
  | .checksumMismatch => 2

/-- The record one finalize builds (43_decode_tick.md R78); it is no state (10_state.md R27). -/
structure Response where
  addr : Byte
  func : Byte
  reg : Half
  payload : List Byte
  isError : Bool
  errorCode : Byte
  isTimeout : Bool
  wrongPeer : Bool
  timeoutKind : TimeoutKind
  deriving DecidableEq, Repr

/-- The result codes (30_encoding.md R55). -/
inductive ResultCode where
  | ok
  | engineBusy
  | transmitDenied
  | listenerTableFull
  | listenerNotFound
  | invalidHandler
  | alreadyInitialised
  | notInitialised
  | illegalCommand
  deriving DecidableEq, Repr

/-- The 8-bit value of a result code (R55). -/
def ResultCode.code : ResultCode → Byte
  | .ok => 0x00
  | .engineBusy => 0x01
  | .transmitDenied => 0x02
  | .listenerTableFull => 0x03
  | .listenerNotFound => 0x04
  | .invalidHandler => 0x05
  | .alreadyInitialised => 0x06
  | .notInitialised => 0x0E
  | .illegalCommand => 0x0F

/-- The three kinds of host interaction (30_encoding.md R56). -/
inductive Interaction where
  | claim
  /-- WRITE carries a length and that many bytes in wire order. -/
  | write (length : Nat) (bytes : List Byte)
  | release
  deriving DecidableEq, Repr

/-- The tag of a host interaction (R56). -/
def Interaction.tag : Interaction → Nat
  | .claim => 1
  | .write _ _ => 2
  | .release => 3

/-- One delivery record, in the form the host receives it (30_encoding.md R58). -/
structure Delivery where
  header : Word
  plen : Half
  payload : List Byte
  deriving DecidableEq, Repr

/-- The outputs of one command (00_scope.md R14): its result code, its host interactions in order, its deliveries
in order. -/
structure Output where
  result : ResultCode
  interactions : List Interaction
  deliveries : List Delivery
  deriving DecidableEq, Repr

/-- One command the host presents: the word (R49) and the answer g the host gives if the command asks a CLAIM (R57). -/
structure HostCommand where
  word : Word
  grant : Bool
  deriving DecidableEq, Repr

/-- The state of one block. A field's docstring names its rule; the fields under "inputs and outputs" and `params` and
`reqValid` are the model's own. -/
structure State where
  /-- The parameters of this block; no command writes them (R6 to R11, log 1). -/
  params : Params
  /-- `live`: whether the instance exists (R17). -/
  live : Bool
  /-- `role`: stored by INIT, read by no rule (R18). -/
  role : Role
  /-- `state`: IDLE or WAIT (R19). -/
  mode : EngineMode
  /-- `idle_ticks` (R20). -/
  idleTicks : Half
  /-- `req`, all four fields (R22). -/
  req : Request
  /-- Whether `req` holds a value: a SEND has stored one since INIT (R22, R30, R96, R97; log 3). -/
  reqValid : Bool
  /-- `rx_buf`, RX_CAP bytes, byte 0 first (R23). -/
  rxBuf : List Byte
  /-- `rx_len` (R24). -/
  rxLen : Half
  /-- `slot`, MAX_LISTENERS handler identities, 0 = empty (R25). -/
  slots : List Handler
  /-- `active`: the active-count boundary (R21). -/
  active : BitVec 8
  /-- Input: the commands the host has yet to present, in the order it issues them (R14, R44; log 5). -/
  port : List HostCommand
  /-- Input: the host's answer g to a CLAIM of the command being run (R57; log 7). -/
  claimAnswer : Bool
  /-- Output: what the last command put out; none before the first command ends (R14; log 8). -/
  out : Option Output
  deriving DecidableEq, Repr

/-- The elements that can be without a value (10_state.md section 1, R30). -/
inductive Element where
  | role
  | mode
  | idleTicks
  | req
  | rxBuf (i : Nat)
  | rxLen
  | slot (i : Nat)
  | active
  deriving DecidableEq, Repr

/-- Why the machine stops. -/
inductive Fault where
  /-- Raised by a finalize (Machine/Ops.lean) that would read an element that holds no value: "A model that finds
  itself reading an element with no value shall fault, not pick a value" (10_state.md R31, D37). Safe: no run from
  power-on reset raises it. -/
  | noValue (e : Element)
  deriving DecidableEq, Repr

/-- Why the machine has no step. -/
inductive Refusal where
  /-- An instruction without a meaning; no arm of exec answers it. Safe. -/
  | notModelled (mnemonic : String)
  /-- Raised by the step of a block whose parameters are out of range: "A configuration with TX_BUF_CAP < 8 is refused:
  the model has no instance for it" (00_scope.md R9; R7 for MAX_LISTENERS; log 9). Safe. -/
  | noSuchConfiguration
  deriving DecidableEq, Repr

/-- The state after power-on reset of a block with parameters `p` (R30, R121): `live` = 0 and no other element holds a
value. The values that stand in those elements are placeholders, DESIGN CHOICE (log 2), unsafe: nothing reads them. -/
def State.powerOn (p : Params) : State where
  params := p
  live := false
  role := .master
  mode := .idle
  idleTicks := 0
  req := ⟨0, 0, 0, 0⟩
  reqValid := false
  rxBuf := List.replicate p.rxCap.toNat 0
  rxLen := 0
  slots := List.replicate p.maxListeners.toNat 0
  active := 0
  port := []
  claimAnswer := false
  out := none

/-- The machine right after reset, for the spec's example parameters (log 1); `State.powerOn` is the same for any. -/
def State.reset : State := State.powerOn Params.exampleValues

end Sys2Proof.Machine
end

