-- ==== Sys2Proof/Machine/Checksum.lean ====
section
/-! DEFINITION. The CRC-16 checker (40_checksum.md R62 to R66): pure functions, no state. -/

namespace Sys2Proof.Machine

/-- One bit step of `crc16`: right shift, and XOR with 0xA001 when bit 0 was 1 (R62). -/
def crcBit (c : Half) : Half :=
  if c.getLsbD 0 then (c >>> 1) ^^^ 0xA001 else c >>> 1

/-- `k` bit steps. -/
def crcBits : Nat → Half → Half
  | 0, c => c
  | k + 1, c => crcBits k (crcBit c)

/-- One byte of `crc16`: XOR the byte into the low half, then eight bit steps, LSB first (R62, 20_memory.md R37). -/
def crcByte (c : Half) (b : Byte) : Half :=
  crcBits 8 (c ^^^ b.setWidth 16)

/-- `crc16(bs)`: seed 0xFFFF, the bytes in list order, no final step (R62, R63). -/
def crc16 (bs : List Byte) : Half :=
  bs.foldl crcByte 0xFFFF

/-- `crc_bytes(c)`: low byte first (R64). -/
def crcBytes (c : Half) : List Byte :=
  [c.extractLsb' 0 8, c.extractLsb' 8 8]

/-- `crc_ok(bs)`: the CRC of all bytes but the trailing two against those two, low byte then high byte (R65). The spec
defines it for len(bs) >= 2; its one caller has len(bs) >= 5. -/
def crcOk (bs : List Byte) : Bool :=
  crc16 (bs.take (bs.length - 2)) == (bs.getD (bs.length - 1) 0 ++ bs.getD (bs.length - 2) 0 : BitVec (8 + 8))

end Sys2Proof.Machine
end

