-- ==== Sys2Proof/Machine/Operands.lean ====
section
/-! DEFINITION. The byte forms of the block's operands: the request frame on the wire (20_memory.md R35,
41_transmit.md R67) and the delivery record (30_encoding.md R58). The operand fields of a command word are taken apart
in Decode.lean (R51). -/

namespace Sys2Proof.Machine

/-- A 16-bit value as two wire bytes, big-endian (R35). -/
def bigEndian (v : Half) : List Byte :=
  [v.extractLsb' 8 8, v.extractLsb' 0 8]

/-- The first six bytes of a request frame: addr, func, reg and data big-endian (R67). -/
def requestHead (q : Request) : List Byte :=
  [q.addr, q.func] ++ bigEndian q.reg ++ bigEndian q.data

/-- `build(r)`: the 8-byte request frame, the head and its CRC, low byte first; one encoding for every function code
(R67, R68). -/
def build (q : Request) : List Byte :=
  requestHead q ++ crcBytes (crc16 (requestHead q))

/-- The sub-list `bs[i..j)` (00_scope.md R13). -/
def slice (bs : List Byte) (i j : Nat) : List Byte :=
  (bs.take j).drop i

/-- The 64-bit header word of a delivery of Response `r` to handler `h` (R58). -/
def deliveryHeader (h : Handler) (r : Response) : Word :=
  (h ++ r.addr ++ r.func ++ r.reg ++ r.errorCode ++ bit r.isError ++ bit r.isTimeout ++ bit r.wrongPeer ++
    r.timeoutKind.code ++ 0#3 : BitVec (16 + 8 + 8 + 16 + 8 + 1 + 1 + 1 + 2 + 3))

/-- `deliver(h, r)`: the delivery record (R58, 00_scope.md R13): header, 16-bit payload length, payload copy. -/
def deliver (h : Handler) (r : Response) : Delivery where
  header := deliveryHeader h r
  plen := BitVec.ofNat 16 r.payload.length
  payload := r.payload

end Sys2Proof.Machine
end

