-- ==== Sys2Proof/Machine/Flags.lean ====
section
/-! DEFINITION. The response decoder (43_decode_tick.md R79 to R85). The block keeps no status flags (10_state.md R26):
its flags are the fields of the Response computed here. -/

namespace Sys2Proof.Machine

/-- The Response before the decoder's steps: addr, func and reg copied from the stored request on every path (R84), every
flag 0, error code 0, no timeout kind, an empty payload (R78). -/
def blankResponse (q : Request) : Response where
  addr := q.addr
  func := q.func
  reg := q.reg
  payload := []
  isError := false
  errorCode := 0
  isTimeout := false
  wrongPeer := false
  timeoutKind := .none

/-- The exception marker (R82). -/
def exceptionMarker : Byte := 0x86

/-- Step 3, classification: an exception reply carries its error code at offset 2 and has no payload (R82); every other
frame's payload is bs[2 .. n-2) (R83). -/
def classify (bs : List Byte) (r : Response) : Response :=
  if bs.getD 1 0 = exceptionMarker then { r with isError := true, errorCode := bs.getD 2 0 }
  else { r with payload := slice bs 2 (bs.length - 2) }

/-- Step 4, the peer check: the wire's leading byte against the stored request's address (R85). -/
def peerCheck (q : Request) (bs : List Byte) (r : Response) : Response :=
  if bs.getD 0 0 ≠ q.addr then { r with wrongPeer := true } else r

/-- `decode(q, bs)`: length guard (R80), checksum guard (R81), classification, peer check, in that order (R79). A frame
that fails a guard goes no further (60_exceptions.md R111). -/
def decodeResponse (q : Request) (bs : List Byte) : Response :=
  if bs.length ≤ 4 then { blankResponse q with isTimeout := true, timeoutKind := .shortFrame }
  else if !crcOk bs then { blankResponse q with isTimeout := true, timeoutKind := .checksumMismatch }
  else peerCheck q bs (classify bs (blankResponse q))

end Sys2Proof.Machine
end

