-- ==== Sys2Proof/Machine/Ops.lean ====
section
/-! DEFINITION. The operations the commands share: how a command ends, the one way an error is reported, the named
updates of the state, the receive buffer, the registry, dispatch and finalize, and how a step gets its next command. -/

namespace Sys2Proof.Machine

/-! ### The end of a command -/

/-- The state with the outputs of the command that ends (00_scope.md R14). They replace those of the command before: the
host has taken them (44_registry.md R93, 70_reset_and_hazards.md R127; log 8). -/
def State.putOut (o : Output) (s : State) : State := { s with out := some o }

/-- `return code` with the command's interaction and delivery lists (00_scope.md R13). -/
def finish (code : ResultCode) (ints : List Interaction) (dels : List Delivery) (s : State) :
    Host.Outcome State Fault Refusal :=
  .next (s.putOut ⟨code, ints, dels⟩)

/-- How every error is reported (60_exceptions.md R99, R100): the block has no trap, so nothing is saved and control goes
nowhere; the command returns its code, no state element changes, and no delivery is made. `ints` is empty but for the CLAIM
of a denied or busy SEND and the RELEASE of a busy one. The next command runs on the unchanged state (R113), so there is no
return from an error. -/
def fail (code : ResultCode) (ints : List Interaction) (s : State) : Host.Outcome State Fault Refusal :=
  finish code ints [] s

/-- An illegal word: ILLEGAL_COMMAND, in every state (R101, 30_encoding.md R53). -/
def illegalCommand (s : State) : Host.Outcome State Fault Refusal :=
  fail .illegalCommand [] s

/-- The first check of every command but INIT: NOT_INITIALISED while `live` = 0 (R102, R111). -/
def whenLive (s : State) (body : State → Host.Outcome State Fault Refusal) : Host.Outcome State Fault Refusal :=
  if s.live then body s else fail .notInitialised [] s

/-! ### Named updates of the state -/

/-- What INIT writes (45_lifecycle.md R96); `req` and `rx_buf` keep no value. -/
def State.create (role : Role) (s : State) : State :=
  { s with role := role, mode := .idle, idleTicks := 0, rxLen := 0, reqValid := false,
           slots := List.replicate s.params.maxListeners.toNat 0, active := 0, live := true }

/-- What DEINIT does (R97): `live` <- 0 and no other element holds a value. The placeholders of power-on reset stand in
the elements again, DESIGN CHOICE (log 2): nothing reads them. -/
def State.destroy (s : State) : State :=
  { State.powerOn s.params with port := s.port, claimAnswer := s.claimAnswer, out := s.out }

/-- What a successful SEND writes (41_transmit.md R69). -/
def State.openWindow (q : Request) (s : State) : State :=
  { s with req := q, reqValid := true, idleTicks := 0, rxLen := 0, mode := .wait }

/-- What a finalize writes after dispatch (43_decode_tick.md R87). -/
def State.closeWindow (s : State) : State :=
  { s with mode := .idle, rxLen := 0, idleTicks := 0 }

/-- What RESET_PARSER writes (42_receive.md R75). -/
def State.clearParser (s : State) : State :=
  { s with rxLen := 0, idleTicks := 0 }

/-- An inbound byte breaks the silence (R73). -/
def State.breakSilence (s : State) : State :=
  { s with idleTicks := 0 }

/-- `RxWrite(rx_len, b)` and the increment of `rx_len` (R73). -/
def State.rxAppend (b : Byte) (s : State) : State :=
  { s with rxBuf := s.rxBuf.set s.rxLen.toNat b, rxLen := s.rxLen + 1 }

/-- A TICK in WAIT below the threshold (R86). -/
def State.countTick (s : State) : State :=
  { s with idleTicks := s.idleTicks + 1 }

/-- ADD_LISTENER's write: slot i takes h, and `active` becomes i + 1 when i is at or beyond it (44_registry.md R90). -/
def State.fillSlot (i : Nat) (h : Handler) (s : State) : State :=
  { s with slots := s.slots.set i h,
           active := if s.active.toNat ≤ i then BitVec.ofNat 8 (i + 1) else s.active }

/-- REMOVE_LISTENER's write: slot i is cleared, and `active` drops by exactly one when i is the last in range (R91). -/
def State.clearSlot (i : Nat) (s : State) : State :=
  { s with slots := s.slots.set i 0,
           active := if i + 1 = s.active.toNat then s.active - 1 else s.active }

/-- The command at the head of the port is presented: the rest stays to come, and the claim answer is the one that comes
with it (00_scope.md R14). -/
def State.present (c : HostCommand) (rest : List HostCommand) (s : State) : State :=
  { s with port := rest, claimAnswer := c.grant }

/-! ### The receive buffer -/

/-- `accept_one(b)` (42_receive.md R73): nothing in IDLE under DROP; otherwise the idle counter is reset and the byte is
appended if capacity remains, else dropped (20_memory.md R43). -/
def acceptOne (b : Byte) (s : State) : State :=
  if s.mode = .idle ∧ s.params.acceptInIdle = .drop then s
  else if s.rxLen < s.params.rxCap then s.breakSilence.rxAppend b
  else s.breakSilence

/-- `accept_one` on each byte of a burst, the first byte first (R74). -/
def acceptBytes (bs : List Byte) (s : State) : State :=
  bs.foldl (fun s b => acceptOne b s) s

/-- `[RxRead(i) for i in 0 .. rx_len-1]` (43_decode_tick.md R87); none when the buffer has no byte at one of these
indexes. -/
def State.rxBytes (s : State) : Option (List Byte) :=
  if s.rxLen.toNat ≤ s.rxBuf.length then some (s.rxBuf.take s.rxLen.toNat) else none

/-! ### The registry -/

/-- The lowest index of `slots` that holds `h` (the linear scans of R90 and R91). -/
def firstSlot (h : Handler) : List Handler → Option Nat
  | [] => none
  | x :: xs => if x = h then some 0 else (firstSlot h xs).map (· + 1)

/-- The first empty slot, in the whole table (R90). -/
def State.firstEmpty (s : State) : Option Nat := firstSlot 0 s.slots

/-- The first slot below `active` that holds `h` (R91). -/
def State.firstMatch (h : Handler) (s : State) : Option Nat := firstSlot h (s.slots.take s.active.toNat)

/-- The handlers registered below `active`, in slot order (R92). -/
def State.listeners (s : State) : List Handler := (s.slots.take s.active.toNat).filter (· ≠ 0)

/-- `dispatch(r)`: one delivery for each occupied slot below `active`, in slot order (R92). -/
def dispatch (r : Response) (s : State) : List Delivery := s.listeners.map fun h => deliver h r

/-! ### The end of a window -/

/-- `finalize()` (43_decode_tick.md R87): decode the stored request and the received bytes, dispatch, then IDLE with the
counters cleared. Reading `req` or a buffer byte that holds no value is a fault (10_state.md R31). -/
def finalize (s : State) : Host.Outcome State Fault Refusal :=
  if s.reqValid then
    match s.rxBytes with
    | some bs => finish .ok [] (dispatch (decodeResponse s.req bs) s) s.closeWindow
    | none => .fault (.noValue (.rxBuf s.rxBuf.length))
  else .fault (.noValue .req)

/-- Which elements hold a value (10_state.md R30, R31, R96, R97). What INIT writes holds one while `live` = 1; `req` from
the first SEND after INIT on; `rx_buf[i]` while i < `rx_len`. -/
def State.holdsValue (s : State) : Element → Bool
  | .role => s.live
  | .mode => s.live
  | .idleTicks => s.live
  | .req => s.live && s.reqValid
  | .rxBuf i => s.live && decide (i < s.rxLen.toNat)
  | .rxLen => s.live
  | .slot i => s.live && decide (i < s.params.maxListeners.toNat)
  | .active => s.live

/-! ### Getting the next command -/

/-- The word the host presents next and the state in which it runs; none while the host presents nothing (00_scope.md R14,
10_state.md R16). -/
def fetch (s : State) : Option (Word × State) :=
  match s.port with
  | [] => none
  | c :: rest => some (c.word, s.present c rest)

end Sys2Proof.Machine
end

