-- ==== Sys2Proof/Machine/Lifecycle.lean ====
section
/-! DEFINITION. The instance lifecycle: INIT and DEINIT (45_lifecycle.md R96, R97). -/

namespace Sys2Proof.Machine

/-- `INIT role` (R96): ALREADY_INITIALISED while `live` = 1 (60_exceptions.md R103); otherwise the instance is created. -/
def execInit (role : Role) (s : State) : Host.Outcome State Fault Refusal :=
  if s.live then fail .alreadyInitialised [] s else finish .ok [] [] (s.create role)

/-- `DEINIT` (R97): the instance is destroyed; an open window is abandoned, with no decode and no delivery. -/
def execDeinit (s : State) : Host.Outcome State Fault Refusal :=
  whenLive s fun s => finish .ok [] [] s.destroy

end Sys2Proof.Machine
end

