-- ==== Sys2Proof/Machine/Receive.lean ====
section
/-! DEFINITION. The receive assembler: ACCEPT_BYTE, ACCEPT, RESET_PARSER (42_receive.md R73 to R75). -/

namespace Sys2Proof.Machine

/-- `ACCEPT_BYTE b` (R73). -/
def execAcceptByte (b : Byte) (s : State) : Host.Outcome State Fault Refusal :=
  whenLive s fun s => finish .ok [] [] (acceptOne b s)

/-- `ACCEPT b0, ..., b(n-1)` (R74); with n = 0 nothing changes. -/
def execAccept (bytes : List Byte) (s : State) : Host.Outcome State Fault Refusal :=
  whenLive s fun s => finish .ok [] [] (acceptBytes bytes s)

/-- `RESET_PARSER` (R75): the window, if open, stays open. -/
def execResetParser (s : State) : Host.Outcome State Fault Refusal :=
  whenLive s fun s => finish .ok [] [] s.clearParser

end Sys2Proof.Machine
end

