-- ==== Sys2Proof/Machine/Registry.lean ====
section
/-! DEFINITION. The listener registry: ADD_LISTENER and REMOVE_LISTENER (44_registry.md R90, R91). -/

namespace Sys2Proof.Machine

/-- `ADD_LISTENER h` (R90): the first empty slot takes h; no check for a duplicate. -/
def execAddListener (h : Handler) (s : State) : Host.Outcome State Fault Refusal :=
  whenLive s fun s =>
    if h = 0 then fail .invalidHandler [] s
    else match s.firstEmpty with
      | some i => finish .ok [] [] (s.fillSlot i h)
      | none => fail .listenerTableFull [] s

/-- `REMOVE_LISTENER h` (R91): the first slot below `active` that holds h is cleared. -/
def execRemoveListener (h : Handler) (s : State) : Host.Outcome State Fault Refusal :=
  whenLive s fun s =>
    if h = 0 then fail .invalidHandler [] s
    else match s.firstMatch h with
      | some i => finish .ok [] [] (s.clearSlot i)
      | none => fail .listenerNotFound [] s

end Sys2Proof.Machine
end

