-- ==== Sys2Proof/Machine/Tick.lean ====
section
/-! DEFINITION. The clock of the block: TICK (43_decode_tick.md R86). -/

namespace Sys2Proof.Machine

/-- A TICK in WAIT under ELSE_BRANCH: below the threshold count, else finalize (R86). -/
def tickElseBranch (s : State) : Host.Outcome State Fault Refusal :=
  if s.idleTicks < s.params.timeoutTicks then finish .ok [] [] s.countTick else finalize s

/-- The counter after a TICK in WAIT under SAME_TICK (R86). -/
def tickCounted (s : State) : State :=
  if s.idleTicks < s.params.timeoutTicks then s.countTick else s

/-- A TICK in WAIT under SAME_TICK: count below the threshold, then finalize if the threshold is reached (R86). -/
def tickSameTick (s : State) : Host.Outcome State Fault Refusal :=
  if s.params.timeoutTicks ≤ (tickCounted s).idleTicks then finalize (tickCounted s)
  else finish .ok [] [] (tickCounted s)

/-- `TICK` (R86): no change in IDLE; in WAIT as TICK_FINALIZE says (00_scope.md R10). -/
def execTick (s : State) : Host.Outcome State Fault Refusal :=
  whenLive s fun s =>
    if s.mode = .idle then finish .ok [] [] s
    else match s.params.tickFinalize with
      | .elseBranch => tickElseBranch s
      | .sameTick => tickSameTick s

end Sys2Proof.Machine
end

