-- ==== Sys2Proof/Machine/Transmit.lean ====
section
/-! DEFINITION. The transmit path: SEND (41_transmit.md R69). -/

namespace Sys2Proof.Machine

/-- `SEND addr, func, reg, data` (R69): CLAIM first (the answer g is `claimAnswer`), then the state; a denied claim emits
no RELEASE, a busy engine emits RELEASE and no WRITE, and a success stores the request, opens the window and writes the
frame between CLAIM and RELEASE. -/
def execSend (addr func : Byte) (reg data : Half) (s : State) : Host.Outcome State Fault Refusal :=
  whenLive s fun s =>
    if !s.claimAnswer then fail .transmitDenied [.claim] s
    else if s.mode ≠ .idle then fail .engineBusy [.claim, .release] s
    else finish .ok [.claim, .write 8 (build ⟨addr, func, reg, data⟩), .release] []
      (s.openWindow ⟨addr, func, reg, data⟩)

end Sys2Proof.Machine
end

