-- ==== Sys2Proof/Machine/Dispatch.lean ====
section
/-! DEFINITION. One arm for each command of the opcode table (30_encoding.md R52). -/

namespace Sys2Proof.Machine

def exec (i : Instr) (s : State) : Host.Outcome State Fault Refusal :=
  match i with
  | .init role => Sys2Proof.Machine.execInit role s
  | .deinit => Sys2Proof.Machine.execDeinit s
  | .send addr func reg data => Sys2Proof.Machine.execSend addr func reg data s
  | .acceptByte b => Sys2Proof.Machine.execAcceptByte b s
  | .accept bytes => Sys2Proof.Machine.execAccept bytes s
  | .resetParser => Sys2Proof.Machine.execResetParser s
  | .tick => Sys2Proof.Machine.execTick s
  | .addListener h => Sys2Proof.Machine.execAddListener h s
  | .removeListener h => Sys2Proof.Machine.execRemoveListener h s

end Sys2Proof.Machine
end

