-- ==== Sys2Proof/Machine/Step.lean ====
section
/-! DEFINITION. One step of the block is one command (00_scope.md R14): take the word the host presents, decode the whole
of it (30_encoding.md R49), and run it. -/

namespace Sys2Proof.Machine

/-- One step. A block whose parameters are out of range has no step (00_scope.md R9). While the host presents no command the
block is static (60_exceptions.md R120, 70_reset_and_hazards.md R121; log 6). An illegal word is reported before anything
else is looked at (60_exceptions.md R101, R111). -/
def step (s : State) : Host.Outcome State Fault Refusal :=
  if s.params.valid then
    match fetch s with
    | none => .next s
    | some (w, s') =>
      match decode w with
      | some i => exec i s'
      | none => illegalCommand s'
  else .refused .noSuchConfiguration

/-- `s` with the command word `w` (its lowest `nbits` bits) as the one the host presents next, before those it was going to
present; the claim answer stays as it stands (log 13). -/
def State.withFetchWord (s : State) (nbits w : Nat) : State :=
  { s with port := ⟨BitVec.ofNat 64 (w % 2 ^ nbits), s.claimAnswer⟩ :: s.port }

end Sys2Proof.Machine
end

