-- ==== Sys2Proof/Machine/Assembler.lean ====
section
/-! DEFINITION. The assembly language of the command set (30_encoding.md R59) and its pseudo-commands (R60): from a line of
text to commands. It is not part of the machine: no step reads it. -/

namespace Sys2Proof.Machine

/-- One line of assembly: the nine commands and the three pseudo-commands, operands as the numbers written (R59, R60). -/
inductive Asm where
  | init (role : Role)
  | deinit
  | send (addr func reg data : Nat)
  | acceptByte (b : Nat)
  | accept (bs : List Nat)
  | resetParser
  | tick
  | addListener (h : Nat)
  | removeListener (h : Nat)
  /-- `send_simple`: the SEND command with the same operands (R60, 41_transmit.md R72). -/
  | sendSimple (addr func reg data : Nat)
  /-- k consecutive TICKs (R60). -/
  | advance (k : Nat)
  /-- ACCEPTs of 6 bytes each, then one with the remaining bytes if there are any (R60). -/
  | acceptBuf (bs : List Nat)
  deriving DecidableEq, Repr

/-- An operand 0 to 255 (R59). -/
def byteOperand (n : Nat) : Option Byte := if n < 256 then some (BitVec.ofNat 8 n) else none

/-- An operand 0 to 65535 (R59). -/
def halfOperand (n : Nat) : Option Half := if n < 65536 then some (BitVec.ofNat 16 n) else none

/-- Byte operands, all in range or none. -/
def byteOperands : List Nat → Option (List Byte)
  | [] => some []
  | n :: ns =>
    match byteOperand n, byteOperands ns with
    | some b, some bs => some (b :: bs)
    | _, _ => none

/-- The ACCEPT commands of an ACCEPT_BUF: 6 bytes each, then the remainder; nothing for no bytes (R60). -/
def acceptChunks : List Byte → List Instr
  | b0 :: b1 :: b2 :: b3 :: b4 :: b5 :: rest => .accept [b0, b1, b2, b3, b4, b5] :: acceptChunks rest
  | [] => []
  | bs => [.accept bs]

/-- SEND with its operands in range. -/
def assembleSend (addr func reg data : Nat) : Option (List Instr) :=
  match byteOperand addr, byteOperand func, halfOperand reg, halfOperand data with
  | some a, some f, some r, some d => some [.send a f r d]
  | _, _, _, _ => none

/-- The commands of one line; none where an operand is out of its range (R59). ADD_LISTENER 0 and REMOVE_LISTENER 0 are
accepted, which R59 leaves to the assembler (log 14). -/
def assemble : Asm → Option (List Instr)
  | .init role => some [.init role]
  | .deinit => some [.deinit]
  | .send a f r d => assembleSend a f r d
  | .acceptByte b => (byteOperand b).map fun b => [.acceptByte b]
  | .accept bs => if bs.length ≤ 6 then (byteOperands bs).map fun bs => [.accept bs] else none
  | .resetParser => some [.resetParser]
  | .tick => some [.tick]
  | .addListener h => (halfOperand h).map fun h => [.addListener h]
  | .removeListener h => (halfOperand h).map fun h => [.removeListener h]
  | .sendSimple a f r d => assembleSend a f r d
  | .advance k => some (List.replicate k .tick)
  | .acceptBuf bs => (byteOperands bs).map acceptChunks

/-! ### Text -/

/-- The value of a decimal digit. -/
def decDigit (c : Char) : Option Nat :=
  if '0' ≤ c ∧ c ≤ '9' then some (c.toNat - '0'.toNat) else none

/-- The value of a hexadecimal digit, capitals or not. -/
def hexDigit (c : Char) : Option Nat :=
  if 'A' ≤ c ∧ c ≤ 'F' then some (c.toNat - 'A'.toNat + 10)
  else if 'a' ≤ c ∧ c ≤ 'f' then some (c.toNat - 'a'.toNat + 10)
  else decDigit c

/-- The value of a digit string in a base, after `acc`. -/
def digitsValue (digit : Char → Option Nat) (base : Nat) : Nat → List Char → Option Nat
  | acc, [] => some acc
  | acc, c :: cs =>
    match digit c with
    | some d => digitsValue digit base (acc * base + d) cs
    | none => none

/-- A number: decimal, or hexadecimal after 0x (R59). -/
def numberOf : List Char → Option Nat
  | [] => none
  | ['0', 'x'] => none
  | '0' :: 'x' :: ds => digitsValue hexDigit 16 0 ds
  | ds => digitsValue decDigit 10 0 ds

/-- Text without the blanks around it. -/
def trimBlanks (cs : List Char) : List Char :=
  ((cs.dropWhile (· = ' ')).reverse.dropWhile (· = ' ')).reverse

/-- The pieces of a text between its commas. -/
def splitCommas : List Char → List (List Char)
  | [] => [[]]
  | c :: cs =>
    match splitCommas cs with
    | [] => [[c]]
    | w :: ws => if c = ',' then [] :: w :: ws else (c :: w) :: ws

/-- The operands of a line, separated by commas (R59). -/
def operandsOf (cs : List Char) : List (List Char) :=
  if trimBlanks cs = [] then [] else (splitCommas cs).map trimBlanks

/-- Operands that are all numbers. -/
def numbersOf : List (List Char) → Option (List Nat)
  | [] => some []
  | w :: ws =>
    match numberOf w, numbersOf ws with
    | some n, some ns => some (n :: ns)
    | _, _ => none

/-- The role named by the operands of INIT (R59). -/
def roleOf (ws : List (List Char)) : Option Role :=
  if ws = [['M', 'A', 'S', 'T', 'E', 'R']] then some .master
  else if ws = [['S', 'L', 'A', 'V', 'E']] then some .slave
  else none

/-- A line with a mnemonic and number operands (R59, R60). -/
def numericLine (m : List Char) (ns : List Nat) : Option Asm :=
  if m = ['D', 'E', 'I', 'N', 'I', 'T'] then (if ns = [] then some .deinit else none)
  else if m = ['S', 'E', 'N', 'D'] then
    (match ns with | [a, f, r, d] => some (.send a f r d) | _ => none)
  else if m = ['A', 'C', 'C', 'E', 'P', 'T', '_', 'B', 'Y', 'T', 'E'] then
    (match ns with | [b] => some (.acceptByte b) | _ => none)
  else if m = ['A', 'C', 'C', 'E', 'P', 'T'] then some (.accept ns)
  else if m = ['R', 'E', 'S', 'E', 'T', '_', 'P', 'A', 'R', 'S', 'E', 'R'] then
    (if ns = [] then some .resetParser else none)
  else if m = ['T', 'I', 'C', 'K'] then (if ns = [] then some .tick else none)
  else if m = ['A', 'D', 'D', '_', 'L', 'I', 'S', 'T', 'E', 'N', 'E', 'R'] then
    (match ns with | [h] => some (.addListener h) | _ => none)
  else if m = ['R', 'E', 'M', 'O', 'V', 'E', '_', 'L', 'I', 'S', 'T', 'E', 'N', 'E', 'R'] then
    (match ns with | [h] => some (.removeListener h) | _ => none)
  else if m = ['S', 'E', 'N', 'D', '_', 'S', 'I', 'M', 'P', 'L', 'E'] then
    (match ns with | [a, f, r, d] => some (.sendSimple a f r d) | _ => none)
  else if m = ['A', 'D', 'V', 'A', 'N', 'C', 'E'] then
    (match ns with | [k] => some (.advance k) | _ => none)
  else if m = ['A', 'C', 'C', 'E', 'P', 'T', '_', 'B', 'U', 'F'] then some (.acceptBuf ns)
  else none

/-- One line of text: a mnemonic, then its operands separated by commas (R59). -/
def parseLine (line : List Char) : Option Asm :=
  let l := trimBlanks line
  let m := l.takeWhile (· ≠ ' ')
  let ops := operandsOf (l.dropWhile (· ≠ ' '))
  if m = ['I', 'N', 'I', 'T'] then (roleOf ops).map .init
  else
    match numbersOf ops with
    | some ns => numericLine m ns
    | none => none

/-- From a line of text to its command words. -/
def assembleLine (line : List Char) : Option (List Word) :=
  match parseLine line with
  | some a => (assemble a).map fun is => is.map encode
  | none => none

end Sys2Proof.Machine
end

