-- ==== Sys2Proof/Machine/Blocks.lean ====
section
/-! DEFINITION. Several blocks side by side (60_exceptions.md R118): each has its own state, its own command port and its own
host hooks, and one of them steps at a time. -/

namespace Sys2Proof.Machine

/-- A step of block `k` of a list of blocks; a number beyond the list names no block, and nothing steps. Which block steps is
the host's choice, an argument here (log 18). -/
def stepBlock (k : Nat) (bs : List State) : Host.Outcome (List State) Fault Refusal :=
  match bs[k]? with
  | none => .next bs
  | some s =>
    match step s with
    | .next s' => .next (bs.set k s')
    | .fault r => .fault r
    | .refused r => .refused r

end Sys2Proof.Machine
end

