-- ==== Sys2Proof/Safety.lean ====
section
/-! DEFINITION. The terms in which claims about the machine are stated: the invariant (10_state.md R29), states that agree on
every element that holds a value (R31), outputs, and runs. -/

namespace Sys2Proof.Machine

/-- The shape of the storage: valid parameters (00_scope.md R7, R9), RX_CAP buffer bytes (10_state.md R23), MAX_LISTENERS
slots (R25). -/
abbrev State.Shaped (s : State) : Prop :=
  s.params.valid = true ∧ s.rxBuf.length = s.params.rxCap.toNat ∧ s.slots.length = s.params.maxListeners.toNat

/-- R29 (b) to (f), for `live` = 1; (a) is the type of `mode`. -/
abbrev State.LiveInv (s : State) : Prop :=
  (s.mode = .wait → s.reqValid = true) ∧ s.rxLen ≤ s.params.rxCap ∧ s.idleTicks ≤ s.params.timeoutTicks ∧
    s.active ≤ s.params.maxListeners ∧ ∀ h ∈ s.slots.drop s.active.toNat, h = 0

/-- The invariant of the block. -/
abbrev State.Inv (s : State) : Prop := s.Shaped ∧ (s.live = true → s.LiveInv)

/-- The two states agree on everything that holds a value: the parameters, the inputs and outputs, `live`, and each element
that `State.holdsValue` says holds one (R30, R31). -/
abbrev State.SameValues (s t : State) : Prop :=
  s.params = t.params ∧ s.port = t.port ∧ s.claimAnswer = t.claimAnswer ∧ s.out = t.out ∧ s.live = t.live ∧
    (s.live = true → s.role = t.role ∧ s.mode = t.mode ∧ s.idleTicks = t.idleTicks ∧ s.rxLen = t.rxLen ∧
      s.slots = t.slots ∧ s.active = t.active ∧ s.reqValid = t.reqValid ∧ (s.reqValid = true → s.req = t.req) ∧
      s.rxBuf.take s.rxLen.toNat = t.rxBuf.take t.rxLen.toNat)

/-- No element of the block differs: everything but the inputs and outputs (60_exceptions.md R100). -/
abbrev State.SameElements (s t : State) : Prop :=
  t.params = s.params ∧ t.live = s.live ∧ t.role = s.role ∧ t.mode = s.mode ∧ t.idleTicks = s.idleTicks ∧
    t.req = s.req ∧ t.reqValid = s.reqValid ∧ t.rxBuf = s.rxBuf ∧ t.rxLen = s.rxLen ∧ t.slots = s.slots ∧
    t.active = s.active

/-- The two states differ at most in ACCEPT_IN_IDLE and, unless a window is open, in the receive buffer, its length and the idle counter:
what 42_receive.md R77 says that parameter can change. -/
abbrev State.SameButInIdle (s t : State) : Prop :=
  t.params.rxCap = s.params.rxCap ∧ t.params.maxListeners = s.params.maxListeners ∧
    t.params.timeoutTicks = s.params.timeoutTicks ∧ t.params.txBufCap = s.params.txBufCap ∧
    t.params.tickFinalize = s.params.tickFinalize ∧ t.port = s.port ∧ t.claimAnswer = s.claimAnswer ∧
    t.out = s.out ∧ t.live = s.live ∧ t.role = s.role ∧ t.mode = s.mode ∧ t.req = s.req ∧ t.reqValid = s.reqValid ∧
    t.slots = s.slots ∧ t.active = s.active ∧
    (s.live = true → s.mode = .wait → t.rxBytes = s.rxBytes ∧ t.rxLen = s.rxLen ∧ t.idleTicks = s.idleTicks)

/-- Two outcomes are of the same kind, next states related by `R`, stops for the same reason. -/
def outcomesAgree (R : State → State → Prop) : Host.Outcome State Fault Refusal → Host.Outcome State Fault Refusal → Prop
  | .next s, .next t => R s t
  | .fault f, .fault g => f = g
  | .refused f, .refused g => f = g
  | _, _ => False

/-- The result code of the last command, if one has ended. -/
def State.result (s : State) : Option ResultCode := s.out.map Output.result

/-- The host interactions of the last command. -/
def State.interactions (s : State) : List Interaction :=
  match s.out with
  | some o => o.interactions
  | none => []

/-- The deliveries of the last command: the event queue (44_registry.md R93). -/
def State.deliveries (s : State) : List Delivery :=
  match s.out with
  | some o => o.deliveries
  | none => []

/-- A WRITE among the interactions: the block transmits. -/
def State.transmits (s : State) : Bool := s.interactions.any fun i => i.tag == 2

/-- Run commands one after another, stopping at the first that stops. -/
def execAll : List Instr → State → Host.Outcome State Fault Refusal
  | [], s => .next s
  | i :: is, s =>
    match exec i s with
    | .next t => execAll is t
    | .fault f => .fault f
    | .refused r => .refused r

/-- The state after `k` steps, where none of them stops. -/
def runSteps (k : Nat) (s : State) : Option State :=
  match Sys2Proof.core.run k s with
  | .next t => some t
  | .fault _ => none
  | .refused _ => none

/-- The outputs after each of the first `k` steps, up to the first stop. -/
def outputsOfRun : Nat → State → List (Option Output)
  | 0, _ => []
  | k + 1, s =>
    match step s with
    | .next t => t.out :: outputsOfRun k t
    | .fault _ => []
    | .refused _ => []

/-- The commands of `is` as the host presents them, each with the same claim answer. -/
def presented (g : Bool) (is : List Instr) : List HostCommand := is.map fun i => ⟨encode i, g⟩

/-- The number k of TICKs without an inbound byte that close a window (43_decode_tick.md R88). -/
def windowTicks (p : Params) : Nat :=
  match p.tickFinalize with
  | .elseBranch => p.timeoutTicks.toNat + 1
  | .sameTick => max p.timeoutTicks.toNat 1

end Sys2Proof.Machine
end

