-- ==== Sys2Proof/Certificates/Slice0/Obligations.lean ====
section
/-! DEFINITION. The statements about the model, for the provers. Each docstring names the rule it formalises. "The model's own"
marks what a log entry decides and no rule of the spec does. -/

open Sys2Proof Sys2Proof.Machine

/-! ### Encoding -/

/-- The sample words of 30_encoding.md R61: each decodes to its command, and the command encodes to it. -/
def Obligations.SampleWordsDecodeAndEncode : Prop :=
  ∀ p ∈ ([(0x0100000000000000, .init .master), (0x0100000000000001, .init .slave), (0x0200000000000000, .deinit),
      (0x1001062000000400, .send 0x01 0x06 0x2000 0x0004), (0x2000000000000083, .acceptByte 0x83),
      (0x2103010620000000, .accept [0x01, 0x06, 0x20]),
      (0x2106010620000004, .accept [0x01, 0x06, 0x20, 0x00, 0x00, 0x04]), (0x2100000000000000, .accept []),
      (0x2200000000000000, .resetParser), (0x3000000000000000, .tick), (0x40000000000000A1, .addListener 0x00A1),
      (0x41000000000000A1, .removeListener 0x00A1)] : List (Word × Instr)),
    decode p.1 = some p.2 ∧ encode p.2 = p.1

/-- Every well-formed command, with every operand at every value, is what its word decodes to (R49 to R52). -/
def Obligations.DecodeOfEncodeIsTheCommand : Prop :=
  ∀ i : Instr, i.wellFormed = true → decode (encode i) = some i

/-- Every legal word has one meaning: it is the word of the one well-formed command it decodes to, so no bit of a legal
word is ignored (R49, R50, R53). -/
def Obligations.EncodeOfDecodeIsTheWord : Prop :=
  ∀ (w : Word) (i : Instr), decode w = some i → i.wellFormed = true ∧ encode i = w

/-- R53 and 60_exceptions.md R101: a word is illegal exactly when (a) its opcode is in no row of the table, or (b) a reserved bit
of its row's format is 1, or (c) it is an ACCEPT with n > 6, or (d) it is an ACCEPT with a byte field bk, k >= n, that is not 0;
an illegal word is reported with code 0x0F in every state, changes no element, and emits nothing. -/
def Obligations.IllegalWordsAreReportedAndChangeNothing : Prop :=
  (∀ w : Word, decode w = none ↔
    ((∀ row ∈ opcodeTable, opcodeField w ≠ opcodeField row.pattern) ∨
     (∃ row ∈ opcodeTable, opcodeField w = opcodeField row.pattern ∧ w &&& row.mask ≠ row.pattern) ∨
     (opcodeField w = 0x21 ∧ 6 < (w.extractLsb' 48 3).toNat) ∨
     (opcodeField w = 0x21 ∧ ∃ k, k < 6 ∧ (w.extractLsb' 48 3).toNat ≤ k ∧ w.extractLsb' (40 - 8 * k) 8 ≠ 0))) ∧
  (∀ (s : State) (c : HostCommand) (rest : List HostCommand), s.params.valid = true → s.port = c :: rest →
    decode c.word = none →
    ∃ t, step s = .next t ∧ s.SameElements t ∧ t.port = rest ∧ t.out = some ⟨.illegalCommand, [], []⟩) ∧
  ResultCode.illegalCommand.code = 0x0F

/-- No word belongs to two rows of the opcode table (R52). -/
def Obligations.OpcodeRowsDoNotOverlap : Prop :=
  ∀ (w : Word), ∀ r ∈ opcodeTable, ∀ q ∈ opcodeTable, w &&& r.mask = r.pattern → w &&& q.mask = q.pattern → r = q

/-! ### The step -/

/-- A step takes the command the host presents next, with its claim answer, decodes the whole word and runs it; the rest of the
schedule stays to come (00_scope.md R14, R49). How the schedule is held is the model's own (log 5, log 7). -/
def Obligations.StepRunsThePresentedCommand : Prop :=
  ∀ (s : State) (c : HostCommand) (rest : List HostCommand) (i : Instr), s.params.valid = true → s.port = c :: rest →
    decode c.word = some i → step s = exec i { s with port := rest, claimAnswer := c.grant }

/-- Between two commands the block is static (60_exceptions.md R120): while the host presents nothing, a step changes nothing.
That such a step is a next state is the model's own (log 6). -/
def Obligations.StepWithoutACommandChangesNothing : Prop :=
  ∀ s : State, s.params.valid = true → s.port = [] → step s = .next s

/-- 00_scope.md R9: a configuration with TX_BUF_CAP < 8 has no step; otherwise TX_BUF_CAP is read by no rule. -/
def Obligations.SendBufferSizeIsCheckedAndNotRead : Prop :=
  (∀ s : State, s.params.txBufCap < 8 → step s = .refused .noSuchConfiguration) ∧
  (∀ (s : State) (n : Nat), 8 ≤ n → 8 ≤ s.params.txBufCap →
    outcomesAgree (fun t u => u = { t with params := { t.params with txBufCap := n } })
      (step s) (step { s with params := { s.params with txBufCap := n } }))

/-- No command writes a parameter (00_scope.md R6 to R11 make them parameters of the block; that they are data in State is log 1), and
every command that ends puts an output out (R14). That the commands to come and the claim answer are fields of State which no command
writes, and that a step takes exactly the head of that list and nothing where it is empty, is the model's own (log 5, log 6, log 7). -/
def Obligations.CommandsChangeNoInput : Prop :=
  (∀ (i : Instr) (s t : State), exec i s = .next t →
    t.params = s.params ∧ t.port = s.port ∧ t.claimAnswer = s.claimAnswer ∧ t.out.isSome = true) ∧
  (∀ s t : State, step s = .next t → t.params = s.params ∧ t.port = s.port.tail)

/-! ### Reset, values and the invariant -/

/-- 10_state.md R30, for every configuration: after power-on reset `live` = 0 and no other element holds a value; INIT is the only
command that makes the block live, with the values of R96. -/
def Obligations.PowerOnHoldsNoValueUntilInit : Prop :=
  ∀ p : Params, (State.powerOn p).live = false ∧ (∀ e, (State.powerOn p).holdsValue e = false) ∧
    (∀ (i : Instr) (t : State), exec i (State.powerOn p) = .next t → (t.live = true ↔ ∃ r, i = .init r)) ∧
    (∀ r, ∃ t, exec (.init r) (State.powerOn p) = .next t ∧ t.live = true ∧ t.role = r ∧ t.mode = .idle ∧
      t.idleTicks = 0 ∧ t.rxLen = 0 ∧ t.slots = List.replicate p.maxListeners.toNat 0 ∧ t.active = 0 ∧
      t.holdsValue .req = false)

/-- 60_exceptions.md R102: a legal command other than INIT while `live` = 0 returns NOT_INITIALISED (0x0E), and nothing changes. -/
def Obligations.NotInitialisedCommandsChangeNothing : Prop :=
  (∀ (i : Instr) (s : State), s.live = false → (∀ r, i ≠ .init r) →
    ∃ t, exec i s = .next t ∧ s.SameElements t ∧ t.out = some ⟨.notInitialised, [], []⟩) ∧
  ResultCode.notInitialised.code = 0x0E

/-- The invariant of R29 holds right after power-on reset, for every configuration the spec has an instance for. -/
def Obligations.PowerOnMeetsTheInvariant : Prop :=
  (∀ p : Params, p.valid = true → (State.powerOn p).Inv) ∧ State.reset.Inv

/-- R29: from every state that meets the invariant, a step gives a state that meets it: while live, WAIT has a stored request,
`rx_len` <= RX_CAP, `idle_ticks` <= TIMEOUT_TICKS, `active` <= MAX_LISTENERS and every slot from `active` on is empty. -/
def Obligations.StepKeepsTheInvariant : Prop :=
  ∀ s t : State, s.Inv → step s = .next t → t.Inv

/-- No state that meets the invariant is stuck: its step answers a next state, never a fault or a refusal (R31, R113). -/
def Obligations.InvariantStatesAlwaysStep : Prop :=
  ∀ s : State, s.Inv → ∃ t, step s = .next t

/-- R31: no step reads an element that holds no value. Two states that agree on every element that holds one, whatever stands in
the others, step to states that agree on every element that holds one, with the same outputs. -/
def Obligations.NoElementWithoutAValueIsRead : Prop :=
  ∀ s t : State, s.Inv → t.Inv → s.SameValues t → outcomesAgree State.SameValues (step s) (step t)

/-- 10_state.md R31, D37: reading an element that holds no value faults. Which element is reported, that `req` is tested before the
buffer, and that a buffer byte that does not exist counts as one without a value are the model's own (log 4); so is the bit that says
whether `req` holds a value (log 3). -/
def Obligations.ReadingNoValueFaults : Prop :=
  ∀ s : State, s.live = true → s.mode = .wait → s.params.timeoutTicks ≤ s.idleTicks →
    (s.reqValid = false → exec .tick s = .fault (.noValue .req)) ∧
    (s.reqValid = true → s.rxBuf.length < s.rxLen.toNat → exec .tick s = .fault (.noValue (.rxBuf s.rxBuf.length)))

/-! ### Errors -/

/-- 60_exceptions.md R100: a command that returns a non-OK code, an illegal word included, changes no element and emits no WRITE and
no delivery; its only interactions are the CLAIM of a denied or busy SEND and the RELEASE of a busy SEND. -/
def Obligations.ErrorsArePrecise : Prop :=
  (∀ (i : Instr) (s t : State), exec i s = .next t → t.result ≠ some .ok →
    s.SameElements t ∧ t.transmits = false ∧ t.deliveries = [] ∧
    (t.interactions ≠ [] → (∃ a f r d, i = .send a f r d) ∧
      (t.result = some .transmitDenied ∧ t.interactions = [.claim] ∨
       t.result = some .engineBusy ∧ t.interactions = [.claim, .release]))) ∧
  (∀ (c : HostCommand) (rest : List HostCommand) (s t : State), s.port = c :: rest → step s = .next t →
    t.result ≠ some .ok → s.SameElements t ∧ t.transmits = false ∧ t.deliveries = [])

/-- 60_exceptions.md R102 to R108, in the order of R111: the result code of every legal command in every state. -/
def Obligations.ResultCodesFollowThePriorities : Prop :=
  ∀ (i : Instr) (s t : State), exec i s = .next t → t.result = some (
    match i with
    | .init _ => if s.live then .alreadyInitialised else .ok
    | .send _ _ _ _ =>
      if s.live = false then .notInitialised else if s.claimAnswer = false then .transmitDenied
      else if s.mode = .wait then .engineBusy else .ok
    | .addListener h =>
      if s.live = false then .notInitialised else if h = 0 then .invalidHandler
      else if 0 ∈ s.slots then .ok else .listenerTableFull
    | .removeListener h =>
      if s.live = false then .notInitialised else if h = 0 then .invalidHandler
      else if h ∈ s.slots.take s.active.toNat then .ok else .listenerNotFound
    | .deinit | .acceptByte _ | .accept _ | .resetParser | .tick => if s.live then .ok else .notInitialised)

/-- The 8-bit values of the result codes (R55), the tags of the interactions (R56), the encodings of `role`, `state` and
`timeout_kind` (10_state.md R18, R19; R58). -/
def Obligations.CodesAreThoseOfTheTables : Prop :=
  [ResultCode.ok, .engineBusy, .transmitDenied, .listenerTableFull, .listenerNotFound, .invalidHandler,
    .alreadyInitialised, .notInitialised, .illegalCommand].map ResultCode.code =
      [0x00, 0x01, 0x02, 0x03, 0x04, 0x05, 0x06, 0x0E, 0x0F] ∧
  (∀ n bs, [Interaction.claim, .write n bs, .release].map Interaction.tag = [1, 2, 3]) ∧
  [Role.master, .slave].map Role.bit = [0, 1] ∧ [EngineMode.idle, .wait].map EngineMode.bit = [0, 1] ∧
  [TimeoutKind.none, .shortFrame, .checksumMismatch].map TimeoutKind.code = [0, 1, 2]

/-! ### The state machine -/

/-- 43_decode_tick.md R89: the only event that takes `state` from WAIT to IDLE is a finalize, by a TICK at the threshold, which
dispatches the decoded Response; every other command leaves WAIT, but for DEINIT, which ends the instance and delivers nothing. -/
def Obligations.OnlyAFinalizeEndsAWindow : Prop :=
  ∀ (i : Instr) (s t : State), s.Inv → s.live = true → s.mode = .wait → exec i s = .next t →
    (t.live = true ∧ t.mode = .wait) ∨
    (i = .deinit ∧ t.live = false ∧ t.deliveries = [] ∧ t.interactions = []) ∨
    (i = .tick ∧ t.live = true ∧ t.mode = .idle ∧
      (s.params.timeoutTicks ≤ s.idleTicks ∨
        s.params.tickFinalize = .sameTick ∧ s.params.timeoutTicks.toNat ≤ s.idleTicks.toNat + 1) ∧
      t.deliveries = (s.slots.filter (· ≠ 0)).map fun h =>
        deliver h (decodeResponse s.req (s.rxBuf.take s.rxLen.toNat)))

/-- R16, R19: the only event that takes a live block from IDLE to WAIT is a successful SEND. -/
def Obligations.OnlyASuccessfulSendOpensAWindow : Prop :=
  ∀ (i : Instr) (s t : State), s.live = true → s.mode = .idle → exec i s = .next t → t.live = true → t.mode = .wait →
    (∃ a f r d, i = .send a f r d ∧ t.req = ⟨a, f, r, d⟩) ∧ t.result = some .ok ∧ t.transmits = true

/-- 41_transmit.md R70: a command that transmits finds the block IDLE and leaves it in WAIT, so a SEND in WAIT never transmits and
at most one request is outstanding. -/
def Obligations.TransmissionNeedsIdleAndLeavesWait : Prop :=
  ∀ (i : Instr) (s t : State), exec i s = .next t → t.transmits = true →
    s.live = true ∧ s.mode = .idle ∧ t.live = true ∧ t.mode = .wait ∧ s.claimAnswer = true

/-- 44_registry.md R95: the registry commands neither read nor write the engine, and the engine commands write neither a slot nor
`active`. -/
def Obligations.RegistryAndEngineAreIndependent : Prop :=
  (∀ (h : Handler) (i : Instr) (s t : State), i = .addListener h ∨ i = .removeListener h → exec i s = .next t →
    t.mode = s.mode ∧ t.req = s.req ∧ t.reqValid = s.reqValid ∧ t.rxBuf = s.rxBuf ∧ t.rxLen = s.rxLen ∧
    t.idleTicks = s.idleTicks) ∧
  (∀ (h : Handler) (i : Instr) (s u : State), i = .addListener h ∨ i = .removeListener h →
    u.live = s.live → u.slots = s.slots → u.active = s.active →
    outcomesAgree (fun a b => b.slots = a.slots ∧ b.active = a.active ∧ b.out = a.out) (exec i s) (exec i u)) ∧
  (∀ (i : Instr) (s t : State), exec i s = .next t →
    (∃ a f r d, i = .send a f r d) ∨ (∃ b, i = .acceptByte b) ∨ (∃ bs, i = .accept bs) ∨ i = .resetParser ∨ i = .tick →
    t.slots = s.slots ∧ t.active = s.active)

/-- 10_state.md R18: INIT writes `role` from its operand, no other command writes a new one (after DEINIT it holds no value), and none
reads it: two states that differ in it alone step to states that differ in it at most, with the same outputs. -/
def Obligations.RoleIsWrittenByInitAndNeverRead : Prop :=
  (∀ (i : Instr) (s t : State), exec i s = .next t →
    (t.role = s.role ∨ t.holdsValue .role = false ∨ ∃ r, i = .init r ∧ s.live = false ∧ t.role = r)) ∧
  (∀ (r : Role) (s : State), s.live = false → ∃ t, exec (.init r) s = .next t ∧ t.role = r) ∧
  (∀ (i : Instr) (s : State) (r : Role),
    outcomesAgree (fun t u => u.out = t.out ∧ u = { t with role := u.role }) (exec i s) (exec i { s with role := r })) ∧
  Role.master.bit = 0 ∧ Role.slave.bit = 1

/-- 60_exceptions.md R118, in the model's own form (log 18: the list of blocks, the argument k and `stepBlock`): a step of block k is that
block's own step, and no other block changes. -/
def Obligations.BlocksShareNothing : Prop :=
  ∀ (k : Nat) (bs : List State) (s : State), bs[k]? = some s →
    (∀ t, step s = .next t → ∃ cs, stepBlock k bs = .next cs ∧ cs[k]? = some t ∧ ∀ j, j ≠ k → cs[j]? = bs[j]?) ∧
    (∀ f, step s = .fault f → stepBlock k bs = .fault f) ∧ (∀ f, step s = .refused f → stepBlock k bs = .refused f)

/-! ### Lifecycle -/

/-- 45_lifecycle.md R96, 60_exceptions.md R103: INIT creates the instance while `live` = 0, writing role, IDLE, zero counters and an
empty registry, with no value for `req` and `rx_buf`; while `live` = 1 it returns ALREADY_INITIALISED and nothing changes. -/
def Obligations.InitCreatesTheInstance : Prop :=
  ∀ (r : Role) (s : State),
    (s.live = false → ∃ t, exec (.init r) s = .next t ∧ t.live = true ∧ t.role = r ∧ t.mode = .idle ∧ t.idleTicks = 0 ∧
      t.rxLen = 0 ∧ t.slots = List.replicate s.params.maxListeners.toNat 0 ∧ t.active = 0 ∧
      t.holdsValue .req = false ∧ (∀ i, t.holdsValue (.rxBuf i) = false) ∧ t.params = s.params ∧
      t.out = some ⟨.ok, [], []⟩) ∧
    (s.live = true → ∃ t, exec (.init r) s = .next t ∧ s.SameElements t ∧ t.out = some ⟨.alreadyInitialised, [], []⟩)

/-- R97: DEINIT of a live instance, in IDLE or WAIT, leaves `live` = 0 and no element with a value, with no interaction and no
delivery; while `live` = 0 it returns NOT_INITIALISED. -/
def Obligations.DeinitDestroysTheInstance : Prop :=
  ∀ s : State,
    (s.live = true → ∃ t, exec .deinit s = .next t ∧ t.live = false ∧ (∀ e, t.holdsValue e = false) ∧
      t.params = s.params ∧ t.out = some ⟨.ok, [], []⟩) ∧
    (s.live = false → ∃ t, exec .deinit s = .next t ∧ s.SameElements t ∧ t.out = some ⟨.notInitialised, [], []⟩)

/-- After DEINIT and INIT nothing of the old instance is left (R98, 70_reset_and_hazards.md R122): the pair gives
the values of the INIT column, whatever the old instance held. -/
def Obligations.DeinitThenInitForgetsTheInstance : Prop :=
  ∀ (r : Role) (s : State), s.live = true → ∃ t, execAll [.deinit, .init r] s = .next t ∧
    t.live = true ∧ t.role = r ∧ t.mode = .idle ∧ t.idleTicks = 0 ∧ t.rxLen = 0 ∧ t.active = 0 ∧
    (∀ h ∈ t.slots, h = 0) ∧ t.slots.length = s.params.maxListeners.toNat ∧ t.holdsValue .req = false

/-! ### Transmit -/

/-- 41_transmit.md R69 (with R67 for the frame, 60_exceptions.md R104, R105): the four outcomes of SEND. -/
def Obligations.SendOutcomes : Prop :=
  ∀ (addr func : Byte) (reg data : Half) (s : State),
    (s.live = false → ∃ t, exec (.send addr func reg data) s = .next t ∧ s.SameElements t ∧
      t.out = some ⟨.notInitialised, [], []⟩) ∧
    (s.live = true → s.claimAnswer = false → ∃ t, exec (.send addr func reg data) s = .next t ∧ s.SameElements t ∧
      t.out = some ⟨.transmitDenied, [.claim], []⟩) ∧
    (s.live = true → s.claimAnswer = true → s.mode = .wait → ∃ t, exec (.send addr func reg data) s = .next t ∧
      s.SameElements t ∧ t.out = some ⟨.engineBusy, [.claim, .release], []⟩) ∧
    (s.live = true → s.claimAnswer = true → s.mode = .idle → ∃ t, exec (.send addr func reg data) s = .next t ∧
      t.live = true ∧ t.mode = .wait ∧ t.req = ⟨addr, func, reg, data⟩ ∧ t.holdsValue .req = true ∧ t.idleTicks = 0 ∧
      t.rxLen = 0 ∧ t.role = s.role ∧ t.slots = s.slots ∧ t.active = s.active ∧ t.rxBuf = s.rxBuf ∧
      t.params = s.params ∧
      t.out = some ⟨.ok, [.claim, .write 8 (build ⟨addr, func, reg, data⟩), .release], []⟩)

/-- R67, R68, 20_memory.md R35: the request frame is 8 bytes for every function code: address, function, register address and data
word big-endian, then the CRC16 of those six bytes, low byte first. -/
def Obligations.RequestFrameLayout : Prop :=
  ∀ q : Request, ∃ r1 r0 d1 d0 c0 c1 : Byte,
    build q = [q.addr, q.func, r1, r0, d1, d0, c0, c1] ∧ (r1 ++ r0 : BitVec (8 + 8)) = q.reg ∧
    (d1 ++ d0 : BitVec (8 + 8)) = q.data ∧
    (c1 ++ c0 : BitVec (8 + 8)) = crc16 [q.addr, q.func, r1, r0, d1, d0]

/-- 30_encoding.md R56, 70_reset_and_hazards.md R125: only SEND has host interactions, and each granted CLAIM is paired with exactly
one RELEASE in the same command, a denied one with none, with an 8-byte WRITE between them or nothing. -/
def Obligations.ClaimsArePairedWithReleases : Prop :=
  ∀ (i : Instr) (s t : State), exec i s = .next t →
    ((∀ a f r d, i ≠ .send a f r d) → t.interactions = []) ∧
    (t.interactions = [] ∨ s.claimAnswer = false ∧ t.interactions = [.claim] ∨
      s.claimAnswer = true ∧ t.interactions = [.claim, .release] ∨
      s.claimAnswer = true ∧ ∃ bs, bs.length = 8 ∧ t.interactions = [.claim, .write 8 bs, .release])

/-! ### CRC -/

/-- 40_checksum.md R62, against the values of 95_test_vectors.md section 2.1 (derived there by hand). -/
def Obligations.CrcKnownValues : Prop :=
  crc16 [] = 0xFFFF ∧ crc16 [0x00] = 0x40BF ∧ crc16 [0xFF] = 0x00FF ∧ crc16 [0x01] = 0x807E ∧
  crc16 [0x01, 0x06] = 0x2280 ∧ crc16 [0x01, 0x06, 0x20, 0x00, 0x00, 0x04] = 0xC983 ∧
  crc16 [0x11, 0x03, 0x04, 0x00, 0x0A, 0x00, 0x14] = 0xFFCB

/-- 40_checksum.md R66: any byte list with its CRC appended low byte first passes the checksum guard, so every frame the block
builds does. -/
def Obligations.AppendedCrcPassesTheGuard : Prop :=
  (∀ bs : List Byte, crcOk (bs ++ crcBytes (crc16 bs)) = true) ∧ ∀ q : Request, crcOk (build q) = true

/-- 40_checksum.md R65 (corner cases; the spec marks the single-bit case as general knowledge): a change confined to one byte of a
frame that passes the guard makes it fail. -/
def Obligations.OneByteCorruptionIsDetected : Prop :=
  ∀ (bs : List Byte) (i : Nat) (b : Byte), 2 ≤ bs.length → i < bs.length → bs[i]? ≠ some b → crcOk bs = true →
    crcOk (bs.set i b) = false

/-! ### Receive -/

/-- 42_receive.md R73: ACCEPT_BYTE resets the idle counter and appends the byte if capacity remains, or drops it; in IDLE under DROP
nothing changes; while `live` = 0, NOT_INITIALISED. Nothing else changes, no buffer byte but the appended one among it. -/
def Obligations.AcceptByteAppendsOrDrops : Prop :=
  ∀ (b : Byte) (s : State),
    (s.live = false → ∃ t, exec (.acceptByte b) s = .next t ∧ s.SameElements t ∧ t.out = some ⟨.notInitialised, [], []⟩) ∧
    (s.live = true → s.mode = .idle → s.params.acceptInIdle = .drop →
      ∃ t, exec (.acceptByte b) s = .next t ∧ s.SameElements t ∧ t.out = some ⟨.ok, [], []⟩) ∧
    (s.Inv → s.live = true → s.mode = .wait ∨ s.params.acceptInIdle = .append →
      ∃ t, exec (.acceptByte b) s = .next t ∧ t.out = some ⟨.ok, [], []⟩ ∧ t.idleTicks = 0 ∧
        (s.rxLen.toNat < s.params.rxCap.toNat →
          t.rxLen.toNat = s.rxLen.toNat + 1 ∧ t.rxBuf[s.rxLen.toNat]? = some b ∧
          ∀ j, j ≠ s.rxLen.toNat → t.rxBuf[j]? = s.rxBuf[j]?) ∧
        (s.rxLen.toNat = s.params.rxCap.toNat → t.rxLen = s.rxLen ∧ t.rxBuf = s.rxBuf) ∧
        t.live = true ∧ t.mode = s.mode ∧ t.role = s.role ∧ t.req = s.req ∧ t.reqValid = s.reqValid ∧
        t.slots = s.slots ∧ t.active = s.active ∧ t.params = s.params)

/-- 42_receive.md R74: ACCEPT ends as that many ACCEPT_BYTE commands with the same bytes in the same order do; with no byte nothing
changes, the idle counter included; while `live` = 0, NOT_INITIALISED. -/
def Obligations.AcceptEqualsItsBytesOneByOne : Prop :=
  ∀ (bs : List Byte) (s : State),
    (s.live = false → ∃ t, exec (.accept bs) s = .next t ∧ s.SameElements t ∧ t.out = some ⟨.notInitialised, [], []⟩) ∧
    (s.live = true → ∃ t u, exec (.accept bs) s = .next t ∧ execAll (bs.map .acceptByte) s = .next u ∧
      u.SameElements t ∧ t.out = some ⟨.ok, [], []⟩ ∧ (bs = [] → s.SameElements t))

/-- 20_memory.md R38, R43, R130: the bytes held after a burst of any length are the held ones followed by the new ones in order, cut
off at RX_CAP. ACCEPT_BUF (30_encoding.md R60) carries the burst, and its result is OK or nothing was run. -/
def Obligations.BufferHoldsTheFirstBytes : Prop :=
  ∀ (bs held : List Byte) (s : State), s.Inv → s.live = true → s.mode = .wait ∨ s.params.acceptInIdle = .append →
    s.rxBytes = some held →
    ∃ t, execAll (acceptChunks bs) s = .next t ∧ t.rxBytes = some ((held ++ bs).take s.params.rxCap.toNat) ∧
      (bs ≠ [] → t.idleTicks = 0 ∧ t.result = some .ok) ∧ (bs = [] → t = s)

/-- 42_receive.md R75: RESET_PARSER clears `rx_len` and `idle_ticks` and nothing else: an open window stays open. -/
def Obligations.ResetParserKeepsTheWindow : Prop :=
  ∀ s : State,
    (s.live = true → ∃ t, exec .resetParser s = .next t ∧ t.out = some ⟨.ok, [], []⟩ ∧ t.rxLen = 0 ∧ t.idleTicks = 0 ∧
      t.mode = s.mode ∧ t.live = true ∧ t.role = s.role ∧ t.req = s.req ∧ t.reqValid = s.reqValid ∧
      t.rxBuf = s.rxBuf ∧ t.slots = s.slots ∧ t.active = s.active ∧ t.params = s.params) ∧
    (s.live = false → ∃ t, exec .resetParser s = .next t ∧ s.SameElements t ∧ t.out = some ⟨.notInitialised, [], []⟩)

/-! ### Decoder -/

/-- 43_decode_tick.md R80, R81: a frame of at most 4 bytes, and a longer one whose CRC does not match, give a timeout Response of
their own kind, with no payload and no other flag. -/
def Obligations.GuardFailuresAreTimeouts : Prop :=
  ∀ (q : Request) (bs : List Byte),
    (bs.length ≤ 4 → decodeResponse q bs =
      { addr := q.addr, func := q.func, reg := q.reg, payload := [], isError := false, errorCode := 0,
        isTimeout := true, wrongPeer := false, timeoutKind := .shortFrame }) ∧
    (5 ≤ bs.length → crcOk bs = false → decodeResponse q bs =
      { addr := q.addr, func := q.func, reg := q.reg, payload := [], isError := false, errorCode := 0,
        isTimeout := true, wrongPeer := false, timeoutKind := .checksumMismatch })

/-- R82, R83, R85: a frame that passes both guards, given as its address byte, function byte, body and CRC bytes: 0x86 marks an
exception whose code is the byte at offset 2; otherwise the body is the payload; the peer flag compares the address byte. -/
def Obligations.GoodFramesAreClassified : Prop :=
  ∀ (q : Request) (a f x lo hi : Byte) (rest : List Byte),
    crcOk (a :: f :: x :: rest ++ [lo, hi]) = true →
    decodeResponse q (a :: f :: x :: rest ++ [lo, hi]) =
      { addr := q.addr, func := q.func, reg := q.reg,
        payload := if f = 0x86 then [] else x :: rest,
        isError := decide (f = 0x86), errorCode := if f = 0x86 then x else 0,
        isTimeout := false, wrongPeer := decide (a ≠ q.addr), timeoutKind := .none }

/-- R84: every Response takes addr, func and reg from the stored request, on every path. -/
def Obligations.ResponsesCarryTheRequest : Prop :=
  ∀ (q : Request) (bs : List Byte),
    (decodeResponse q bs).addr = q.addr ∧ (decodeResponse q bs).func = q.func ∧ (decodeResponse q bs).reg = q.reg

/-- 30_encoding.md R58: the fields of a delivery's header word are those of its Response, and its reserved bits are 0. -/
def Obligations.DeliveryHeaderFields : Prop :=
  ∀ (h : Handler) (r : Response),
    let d := (deliver h r).header
    d.extractLsb' 48 16 = h ∧ d.extractLsb' 40 8 = r.addr ∧ d.extractLsb' 32 8 = r.func ∧ d.extractLsb' 16 16 = r.reg ∧
    d.extractLsb' 8 8 = r.errorCode ∧ d.getLsbD 7 = r.isError ∧ d.getLsbD 6 = r.isTimeout ∧
    d.getLsbD 5 = r.wrongPeer ∧ d.extractLsb' 3 2 = r.timeoutKind.code ∧ d.extractLsb' 0 3 = 0 ∧
    r.timeoutKind.code ≠ 3 ∧ (deliver h r).payload = r.payload

/-- R58, R78: every delivered payload is at most RX_CAP - 4 bytes (none when RX_CAP < 4), and `plen` is its length. -/
def Obligations.DeliveredPayloadsFit : Prop :=
  ∀ (i : Instr) (s t : State) (d : Delivery), s.Inv → exec i s = .next t → d ∈ t.deliveries →
    d.payload.length ≤ s.params.rxCap.toNat - 4 ∧ d.plen.toNat = d.payload.length

/-- 70_reset_and_hazards.md R129: the block's own frame fed back is decoded as a reply: no timeout and no peer flag, and, for a request
function other than 0x86, the register address and data word as payload. -/
def Obligations.EchoDecodesAsAReply : Prop :=
  ∀ q : Request,
    (decodeResponse q (build q)).isTimeout = false ∧ (decodeResponse q (build q)).wrongPeer = false ∧
    (q.func ≠ 0x86 → (decodeResponse q (build q)).isError = false ∧
      (decodeResponse q (build q)).payload =
        [q.reg.extractLsb' 8 8, q.reg.extractLsb' 0 8, q.data.extractLsb' 8 8, q.data.extractLsb' 0 8]) ∧
    (q.func = 0x86 → (decodeResponse q (build q)).isError = true ∧
      (decodeResponse q (build q)).errorCode = q.reg.extractLsb' 8 8)

/-! ### TICK, dispatch and time -/

/-- 43_decode_tick.md R86, R87: TICK changes nothing in IDLE; in WAIT it counts, or finalizes: the decoded Response goes to every
occupied slot in slot order, and the block is IDLE with its counters cleared; while `live` = 0, NOT_INITIALISED. -/
def Obligations.TickCountsOrFinalizes : Prop :=
  ∀ s : State, s.Inv →
    let finalizes := s.params.timeoutTicks.toNat ≤ s.idleTicks.toNat ∨
      s.params.tickFinalize = .sameTick ∧ s.params.timeoutTicks.toNat ≤ s.idleTicks.toNat + 1
    (s.live = false → ∃ t, exec .tick s = .next t ∧ s.SameElements t ∧ t.out = some ⟨.notInitialised, [], []⟩) ∧
    (s.live = true → s.mode = .idle → ∃ t, exec .tick s = .next t ∧ s.SameElements t ∧ t.out = some ⟨.ok, [], []⟩) ∧
    (s.live = true → s.mode = .wait → ¬ finalizes → ∃ t, exec .tick s = .next t ∧
      t.idleTicks.toNat = s.idleTicks.toNat + 1 ∧ t.out = some ⟨.ok, [], []⟩ ∧
      s.SameElements { t with idleTicks := s.idleTicks }) ∧
    (s.live = true → s.mode = .wait → finalizes → ∃ t, exec .tick s = .next t ∧
      t.mode = .idle ∧ t.rxLen = 0 ∧ t.idleTicks = 0 ∧
      t.out = some ⟨.ok, [], (s.slots.filter (· ≠ 0)).map fun h =>
        deliver h (decodeResponse s.req (s.rxBuf.take s.rxLen.toNat))⟩ ∧
      s.SameElements { t with mode := s.mode, rxLen := s.rxLen, idleTicks := s.idleTicks })

/-- 44_registry.md R92, R93: scanning below `active` reaches every occupied slot, in slot order; a dispatch makes one delivery for each,
all of the same Response, at most MAX_LISTENERS; and only a TICK in WAIT delivers. -/
def Obligations.DispatchReachesEveryOccupiedSlotOnce : Prop :=
  (∀ (r : Response) (s : State), s.Inv → s.live = true →
    dispatch r s = (s.slots.filter (· ≠ 0)).map (fun h => deliver h r) ∧
    (dispatch r s).length ≤ s.params.maxListeners.toNat) ∧
  (∀ (i : Instr) (s t : State), exec i s = .next t → t.deliveries ≠ [] → i = .tick ∧ s.live = true ∧ s.mode = .wait)

/-- 43_decode_tick.md R88: with the idle counter at 0 in WAIT and no byte between, the window is open after each of the first k - 1
TICKs, and the k-th finalizes, where k = T + 1 under ELSE_BRANCH and k = max(T, 1) under SAME_TICK. -/
def Obligations.WindowClosesAtTheKthTick : Prop :=
  ∀ (s : State) (g : Bool) (rest : List HostCommand), s.Inv → s.live = true → s.mode = .wait → s.idleTicks = 0 →
    s.port = presented g (List.replicate (windowTicks s.params) .tick) ++ rest →
    (∀ j, 0 < j → j < windowTicks s.params → ∃ t, runSteps j s = some t ∧ t.mode = .wait ∧ t.deliveries = [] ∧
      t.idleTicks.toNat = j) ∧
    (∃ t, runSteps (windowTicks s.params) s = some t ∧ t.mode = .idle ∧ t.port = rest ∧
      t.deliveries = (s.slots.filter (· ≠ 0)).map fun h =>
        deliver h (decodeResponse s.req (s.rxBuf.take s.rxLen.toNat)))

/-- 41_transmit.md R71: after a window has been finalized, a SEND with g = 1 returns OK and transmits. -/
def Obligations.FinalizedWindowLetsSendSucceed : Prop :=
  ∀ (s t : State) (a f : Byte) (r d : Half), s.Inv → s.live = true → s.mode = .wait → s.claimAnswer = true →
    exec .tick s = .next t → t.mode = .idle →
    ∃ u, exec (.send a f r d) t = .next u ∧ u.result = some .ok ∧ u.mode = .wait ∧
      u.interactions = [.claim, .write 8 (build ⟨a, f, r, d⟩), .release]

/-- The whole cycle (R69, R74, R86 to R88, R92): from IDLE, a granted SEND, any reply bytes in ACCEPT commands and k TICKs deliver,
to every occupied slot in order, the decode of the first RX_CAP bytes against that request, and leave the block IDLE. -/
def Obligations.RequestIsAnsweredByItsDecodedReply : Prop :=
  ∀ (s : State) (a f : Byte) (r d : Half) (bs : List Byte) (rest : List HostCommand), s.Inv → s.live = true →
    s.mode = .idle →
    s.port = presented true (.send a f r d :: acceptChunks bs ++ List.replicate (windowTicks s.params) .tick) ++ rest →
    ∃ t, runSteps (1 + (acceptChunks bs).length + windowTicks s.params) s = some t ∧ t.port = rest ∧
      t.live = true ∧ t.mode = .idle ∧ t.rxLen = 0 ∧ t.idleTicks = 0 ∧ t.req = ⟨a, f, r, d⟩ ∧ t.slots = s.slots ∧
      t.out = some ⟨.ok, [], (s.slots.filter (· ≠ 0)).map fun h =>
        deliver h (decodeResponse ⟨a, f, r, d⟩ (bs.take s.params.rxCap.toNat))⟩

/-- 42_receive.md R77 over runs: from power-on reset, under both values of ACCEPT_IN_IDLE, every sequence of commands with any claim
answers gives the same outputs, and the states differ only in the buffer, its length and the idle counter, and only outside WAIT. The
list of commands to come is the model's own (log 5); `AcceptInIdleStaysUnobservable` says the same of one step. -/
def Obligations.AcceptInIdleIsUnobservable : Prop :=
  ∀ (p : Params) (cmds : List HostCommand) (k : Nat), p.valid = true →
    let s := { State.powerOn { p with acceptInIdle := .append } with port := cmds }
    let u := { State.powerOn { p with acceptInIdle := .drop } with port := cmds }
    outputsOfRun k s = outputsOfRun k u ∧
    ∃ s' u', runSteps k s = some s' ∧ runSteps k u = some u' ∧ u'.live = s'.live ∧ u'.role = s'.role ∧
      u'.mode = s'.mode ∧ u'.req = s'.req ∧ u'.reqValid = s'.reqValid ∧ u'.slots = s'.slots ∧
      u'.active = s'.active ∧
      (s'.mode = .wait → u'.rxBytes = s'.rxBytes ∧ u'.rxLen = s'.rxLen ∧ u'.idleTicks = s'.idleTicks)

/-! ### Registry -/

/-- 44_registry.md R90 (60_exceptions.md R106, R108): ADD_LISTENER fills the first empty slot and raises `active` to one past it when it is
at or beyond it; a full table, h = 0 and `live` = 0 are reported, and nothing changes. -/
def Obligations.AddListenerFillsTheFirstEmptySlot : Prop :=
  ∀ (h : Handler) (s : State), s.Inv →
    (s.live = false → ∃ t, exec (.addListener h) s = .next t ∧ s.SameElements t ∧ t.out = some ⟨.notInitialised, [], []⟩) ∧
    (s.live = true → h = 0 → ∃ t, exec (.addListener h) s = .next t ∧ s.SameElements t ∧
      t.out = some ⟨.invalidHandler, [], []⟩) ∧
    (s.live = true → h ≠ 0 → 0 ∉ s.slots → ∃ t, exec (.addListener h) s = .next t ∧ s.SameElements t ∧
      t.out = some ⟨.listenerTableFull, [], []⟩) ∧
    (s.live = true → h ≠ 0 → 0 ∈ s.slots → ∃ t i, exec (.addListener h) s = .next t ∧
      t.out = some ⟨.ok, [], []⟩ ∧ s.slots[i]? = some 0 ∧ (∀ j, j < i → s.slots[j]? ≠ some 0) ∧
      t.slots[i]? = some h ∧ (∀ j, j ≠ i → t.slots[j]? = s.slots[j]?) ∧
      t.active.toNat = (if s.active.toNat ≤ i then i + 1 else s.active.toNat) ∧
      s.SameElements { t with slots := s.slots, active := s.active })

/-- 44_registry.md R91 (60_exceptions.md R107, R108): REMOVE_LISTENER clears the first slot below `active` that holds h and lowers `active` by
exactly one when that slot was the last in range; no match, h = 0 and `live` = 0 are reported, and nothing changes. -/
def Obligations.RemoveListenerClearsTheFirstMatch : Prop :=
  ∀ (h : Handler) (s : State), s.Inv →
    (s.live = false → ∃ t, exec (.removeListener h) s = .next t ∧ s.SameElements t ∧
      t.out = some ⟨.notInitialised, [], []⟩) ∧
    (s.live = true → h = 0 → ∃ t, exec (.removeListener h) s = .next t ∧ s.SameElements t ∧
      t.out = some ⟨.invalidHandler, [], []⟩) ∧
    (s.live = true → h ≠ 0 → (∀ j, j < s.active.toNat → s.slots[j]? ≠ some h) →
      ∃ t, exec (.removeListener h) s = .next t ∧ s.SameElements t ∧ t.out = some ⟨.listenerNotFound, [], []⟩) ∧
    (∀ i, s.live = true → h ≠ 0 → i < s.active.toNat → s.slots[i]? = some h → (∀ j, j < i → s.slots[j]? ≠ some h) →
      ∃ t, exec (.removeListener h) s = .next t ∧ t.out = some ⟨.ok, [], []⟩ ∧ t.slots[i]? = some 0 ∧
      (∀ j, j ≠ i → t.slots[j]? = s.slots[j]?) ∧
      t.active.toNat = (if i + 1 = s.active.toNat then s.active.toNat - 1 else s.active.toNat) ∧
      s.SameElements { t with slots := s.slots, active := s.active })

/-- 95_test_vectors.md E8: in a full table ADD_LISTENER fails; removing a registered listener and adding again succeeds and reuses the freed
slot. -/
def Obligations.FreedSlotIsReused : Prop :=
  ∀ (s : State) (h g : Handler), s.Inv → s.live = true → 0 ∉ s.slots → h ∈ s.slots → g ≠ 0 →
    (∃ t, exec (.addListener g) s = .next t ∧ s.SameElements t ∧ t.result = some .listenerTableFull) ∧
    ∃ t i, execAll [.removeListener h, .addListener g] s = .next t ∧ t.result = some .ok ∧ s.slots[i]? = some h ∧
      t.slots = s.slots.set i g ∧ t.active = s.active

/-! ### Frames -/

/-- What the receive commands leave unchanged in every state (R73 to R75): everything but `rx_buf`, `rx_len` and `idle_ticks`, and every
buffer byte outside those the command appends at `rx_len`. -/
def Obligations.ReceiveCommandsFrame : Prop :=
  ∀ (i : Instr) (bs : List Byte) (s t : State),
    (∃ b, i = .acceptByte b ∧ bs = [b]) ∨ i = .accept bs ∨ (i = .resetParser ∧ bs = []) →
    exec i s = .next t →
    t.params = s.params ∧ t.live = s.live ∧ t.role = s.role ∧ t.mode = s.mode ∧ t.req = s.req ∧
    t.reqValid = s.reqValid ∧ t.slots = s.slots ∧ t.active = s.active ∧ t.port = s.port ∧
    t.claimAnswer = s.claimAnswer ∧ t.rxBuf.length = s.rxBuf.length ∧
    ∀ j, j < s.rxLen.toNat ∨ s.rxLen.toNat + bs.length ≤ j → t.rxBuf[j]? = s.rxBuf[j]?

/-- What SEND and TICK leave unchanged in every state (R69, R86, R87): the role, `live`, the registry and every buffer byte; SEND writes
`req` and the window's elements, TICK only `state`, `rx_len` and `idle_ticks`. -/
def Obligations.SendAndTickFrame : Prop :=
  ∀ (i : Instr) (s t : State), (∃ a f r d, i = .send a f r d) ∨ i = .tick → exec i s = .next t →
    t.params = s.params ∧ t.live = s.live ∧ t.role = s.role ∧ t.slots = s.slots ∧ t.active = s.active ∧
    t.rxBuf = s.rxBuf ∧ t.port = s.port ∧ t.claimAnswer = s.claimAnswer ∧
    (i = .tick → t.req = s.req ∧ t.reqValid = s.reqValid)

/-- What the registry commands leave unchanged in every state (R90, R91): everything but the slots and `active`; of the slots every one but
the one the scan finds, which is the first empty slot for ADD_LISTENER and the first slot below `active` that holds h for
REMOVE_LISTENER; and with `live` = 0, with h = 0 or where the scan finds none, every slot and `active` too. -/
def Obligations.RegistryCommandsFrame : Prop :=
  ∀ (h : Handler) (i : Instr) (s t : State), i = .addListener h ∨ i = .removeListener h → exec i s = .next t →
    s.SameElements { t with slots := s.slots, active := s.active } ∧ t.port = s.port ∧ t.claimAnswer = s.claimAnswer ∧
    t.slots.length = s.slots.length ∧
    (i = .addListener h → ∀ j, s.firstEmpty ≠ some j → t.slots[j]? = s.slots[j]?) ∧
    (i = .removeListener h → ∀ j, s.firstMatch h ≠ some j → t.slots[j]? = s.slots[j]?) ∧
    (s.live = false ∨ h = 0 ∨ (i = .addListener h ∧ s.firstEmpty = none) ∨
        (i = .removeListener h ∧ s.firstMatch h = none) →
      t.slots = s.slots ∧ t.active = s.active)

/-! ### Assembler -/

/-- 30_encoding.md R59, R60, 41_transmit.md R72: each line becomes the command of its mnemonic with the operands written, and is refused
where an operand is out of its range; SEND_SIMPLE is SEND; ADVANCE k is k TICKs; ACCEPT_BUF is ACCEPTs of 6 bytes each, in order, then
one with the remaining bytes if there are any; whatever is accepted is well-formed. That h = 0 is accepted, which R59 leaves to the
assembler, is the model's own (log 14). -/
def Obligations.AssemblerMakesWellFormedCommands : Prop :=
  (∀ (a : Asm) (is : List Instr), assemble a = some is → ∀ i ∈ is, i.wellFormed = true) ∧
  (∀ r, assemble (.init r) = some [.init r]) ∧
  assemble .deinit = some [.deinit] ∧ assemble .resetParser = some [.resetParser] ∧ assemble .tick = some [.tick] ∧
  (∀ a f r d, assemble (.send a f r d) =
    if a < 256 ∧ f < 256 ∧ r < 65536 ∧ d < 65536 then
      some [.send (BitVec.ofNat 8 a) (BitVec.ofNat 8 f) (BitVec.ofNat 16 r) (BitVec.ofNat 16 d)]
    else none) ∧
  (∀ a f r d, assemble (.sendSimple a f r d) = assemble (.send a f r d)) ∧
  (∀ b, assemble (.acceptByte b) = if b < 256 then some [.acceptByte (BitVec.ofNat 8 b)] else none) ∧
  (∀ bs : List Nat, assemble (.accept bs) =
    if bs.length ≤ 6 ∧ ∀ b ∈ bs, b < 256 then some [.accept (bs.map (BitVec.ofNat 8))] else none) ∧
  (∀ h, assemble (.addListener h) = if h < 65536 then some [.addListener (BitVec.ofNat 16 h)] else none) ∧
  (∀ h, assemble (.removeListener h) = if h < 65536 then some [.removeListener (BitVec.ofNat 16 h)] else none) ∧
  (∀ k, assemble (.advance k) = some (List.replicate k .tick)) ∧
  (∀ bs : List Nat, assemble (.acceptBuf bs) =
    if ∀ b ∈ bs, b < 256 then
      some ((List.range ((bs.length + 5) / 6)).map fun k =>
        .accept (((bs.map (BitVec.ofNat 8)).drop (6 * k)).take 6))
    else none)

/-- 30_encoding.md R59 and R61: the text of each sample command assembles to its word. Where blanks may stand in a text is the model's
own (log 14). -/
def Obligations.SampleLinesAssembleToTheirWords : Prop :=
  ∀ p ∈ ([("INIT MASTER", 0x0100000000000000), ("INIT SLAVE", 0x0100000000000001), ("DEINIT", 0x0200000000000000),
      ("SEND 1, 6, 0x2000, 4", 0x1001062000000400), ("ACCEPT_BYTE 0x83", 0x2000000000000083),
      ("ACCEPT 0x01, 0x06, 0x20", 0x2103010620000000),
      ("ACCEPT 0x01, 0x06, 0x20, 0x00, 0x00, 0x04", 0x2106010620000004), ("ACCEPT", 0x2100000000000000),
      ("RESET_PARSER", 0x2200000000000000), ("TICK", 0x3000000000000000),
      ("ADD_LISTENER 0x00A1", 0x40000000000000A1), ("REMOVE_LISTENER 0x00A1", 0x41000000000000A1)] :
      List (String × Word)),
    assembleLine p.1.toList = some [p.2]

/-! ### ACCEPT_IN_IDLE, step by step -/

/-- 42_receive.md R77 as a step lemma: two states that meet the invariant and differ at most in ACCEPT_IN_IDLE and, unless a window is
open, in `rx_buf`, `rx_len` and `idle_ticks`, step to states that differ in no more, so with the same outputs. -/
def Obligations.AcceptInIdleStaysUnobservable : Prop :=
  ∀ s t : State, s.Inv → t.Inv → s.SameButInIdle t → outcomesAgree State.SameButInIdle (step s) (step t)
end

