-- ==== Sys2Proof/Laws/Encoding.lean ====
section
/-! SUPPORT. Taking a field out of a word put together from fields, and putting a word together from its fields (30_encoding.md R50,
R51). -/

namespace Sys2Proof

/-- A field that lies above the last part is a field of what stands before it. -/
theorem field_high {v w : Nat} (x : BitVec v) (y : BitVec w) (s l : Nat) (h : w ≤ s) :
    (x ++ y).extractLsb' s l = x.extractLsb' (s - w) l := by
  rw [BitVec.extractLsb'_append_eq_ite, dif_neg (by omega)]

/-- A field that lies within the last part is a field of that part. -/
theorem field_low {v w : Nat} (x : BitVec v) (y : BitVec w) (s l : Nat) (h : s + l ≤ w) :
    (x ++ y).extractLsb' s l = y.extractLsb' s l := by
  ext k hk
  simp only [BitVec.getElem_extractLsb', BitVec.getLsbD_append]
  rw [if_pos (by omega)]

/-- Two neighbouring fields of a word, put together, are one field of it. -/
theorem field_join {n : Nat} (x : BitVec n) {s t l m : Nat} (h : s = t + m) :
    x.extractLsb' s l ++ x.extractLsb' t m = x.extractLsb' t (l + m) :=
  BitVec.extractLsb'_append_extractLsb'_eq_extractLsb' h

end Sys2Proof
end

