-- ==== Sys2Proof/Laws/State.lean ====
section
/-! SUPPORT. What each named update of the state leaves in each field: one lemma per field per update, so that no proof
unfolds a record update. -/

namespace Sys2Proof.Machine

section
variable (o : Output) (s : State)

@[simp] theorem State.putOut_params : (s.putOut o).params = s.params := rfl
@[simp] theorem State.putOut_live : (s.putOut o).live = s.live := rfl
@[simp] theorem State.putOut_role : (s.putOut o).role = s.role := rfl
@[simp] theorem State.putOut_mode : (s.putOut o).mode = s.mode := rfl
@[simp] theorem State.putOut_idleTicks : (s.putOut o).idleTicks = s.idleTicks := rfl
@[simp] theorem State.putOut_req : (s.putOut o).req = s.req := rfl
@[simp] theorem State.putOut_reqValid : (s.putOut o).reqValid = s.reqValid := rfl
@[simp] theorem State.putOut_rxBuf : (s.putOut o).rxBuf = s.rxBuf := rfl
@[simp] theorem State.putOut_rxLen : (s.putOut o).rxLen = s.rxLen := rfl
@[simp] theorem State.putOut_slots : (s.putOut o).slots = s.slots := rfl
@[simp] theorem State.putOut_active : (s.putOut o).active = s.active := rfl
@[simp] theorem State.putOut_port : (s.putOut o).port = s.port := rfl
@[simp] theorem State.putOut_claimAnswer : (s.putOut o).claimAnswer = s.claimAnswer := rfl
@[simp] theorem State.putOut_out : (s.putOut o).out = some o := rfl

end

section
variable (r : Role) (s : State)

@[simp] theorem State.create_params : (s.create r).params = s.params := rfl
@[simp] theorem State.create_live : (s.create r).live = true := rfl
@[simp] theorem State.create_role : (s.create r).role = r := rfl
@[simp] theorem State.create_mode : (s.create r).mode = .idle := rfl
@[simp] theorem State.create_idleTicks : (s.create r).idleTicks = 0 := rfl
@[simp] theorem State.create_req : (s.create r).req = s.req := rfl
@[simp] theorem State.create_reqValid : (s.create r).reqValid = false := rfl
@[simp] theorem State.create_rxBuf : (s.create r).rxBuf = s.rxBuf := rfl
@[simp] theorem State.create_rxLen : (s.create r).rxLen = 0 := rfl
@[simp] theorem State.create_slots : (s.create r).slots = List.replicate s.params.maxListeners.toNat 0 := rfl
@[simp] theorem State.create_active : (s.create r).active = 0 := rfl
@[simp] theorem State.create_port : (s.create r).port = s.port := rfl
@[simp] theorem State.create_claimAnswer : (s.create r).claimAnswer = s.claimAnswer := rfl
@[simp] theorem State.create_out : (s.create r).out = s.out := rfl

end

section
variable (s : State)

@[simp] theorem State.destroy_params : (s.destroy).params = s.params := rfl
@[simp] theorem State.destroy_live : (s.destroy).live = false := rfl
@[simp] theorem State.destroy_role : (s.destroy).role = .master := rfl
@[simp] theorem State.destroy_mode : (s.destroy).mode = .idle := rfl
@[simp] theorem State.destroy_idleTicks : (s.destroy).idleTicks = 0 := rfl
@[simp] theorem State.destroy_req : (s.destroy).req = ⟨0, 0, 0, 0⟩ := rfl
@[simp] theorem State.destroy_reqValid : (s.destroy).reqValid = false := rfl
@[simp] theorem State.destroy_rxBuf : (s.destroy).rxBuf = List.replicate s.params.rxCap.toNat 0 := rfl
@[simp] theorem State.destroy_rxLen : (s.destroy).rxLen = 0 := rfl
@[simp] theorem State.destroy_slots : (s.destroy).slots = List.replicate s.params.maxListeners.toNat 0 := rfl
@[simp] theorem State.destroy_active : (s.destroy).active = 0 := rfl
@[simp] theorem State.destroy_port : (s.destroy).port = s.port := rfl
@[simp] theorem State.destroy_claimAnswer : (s.destroy).claimAnswer = s.claimAnswer := rfl
@[simp] theorem State.destroy_out : (s.destroy).out = s.out := rfl

end

section
variable (q : Request) (s : State)

@[simp] theorem State.openWindow_params : (s.openWindow q).params = s.params := rfl
@[simp] theorem State.openWindow_live : (s.openWindow q).live = s.live := rfl
@[simp] theorem State.openWindow_role : (s.openWindow q).role = s.role := rfl
@[simp] theorem State.openWindow_mode : (s.openWindow q).mode = .wait := rfl
@[simp] theorem State.openWindow_idleTicks : (s.openWindow q).idleTicks = 0 := rfl
@[simp] theorem State.openWindow_req : (s.openWindow q).req = q := rfl
@[simp] theorem State.openWindow_reqValid : (s.openWindow q).reqValid = true := rfl
@[simp] theorem State.openWindow_rxBuf : (s.openWindow q).rxBuf = s.rxBuf := rfl
@[simp] theorem State.openWindow_rxLen : (s.openWindow q).rxLen = 0 := rfl
@[simp] theorem State.openWindow_slots : (s.openWindow q).slots = s.slots := rfl
@[simp] theorem State.openWindow_active : (s.openWindow q).active = s.active := rfl
@[simp] theorem State.openWindow_port : (s.openWindow q).port = s.port := rfl
@[simp] theorem State.openWindow_claimAnswer : (s.openWindow q).claimAnswer = s.claimAnswer := rfl
@[simp] theorem State.openWindow_out : (s.openWindow q).out = s.out := rfl

end

section
variable (s : State)

@[simp] theorem State.closeWindow_params : (s.closeWindow).params = s.params := rfl
@[simp] theorem State.closeWindow_live : (s.closeWindow).live = s.live := rfl
@[simp] theorem State.closeWindow_role : (s.closeWindow).role = s.role := rfl
@[simp] theorem State.closeWindow_mode : (s.closeWindow).mode = .idle := rfl
@[simp] theorem State.closeWindow_idleTicks : (s.closeWindow).idleTicks = 0 := rfl
@[simp] theorem State.closeWindow_req : (s.closeWindow).req = s.req := rfl
@[simp] theorem State.closeWindow_reqValid : (s.closeWindow).reqValid = s.reqValid := rfl
@[simp] theorem State.closeWindow_rxBuf : (s.closeWindow).rxBuf = s.rxBuf := rfl
@[simp] theorem State.closeWindow_rxLen : (s.closeWindow).rxLen = 0 := rfl
@[simp] theorem State.closeWindow_slots : (s.closeWindow).slots = s.slots := rfl
@[simp] theorem State.closeWindow_active : (s.closeWindow).active = s.active := rfl
@[simp] theorem State.closeWindow_port : (s.closeWindow).port = s.port := rfl
@[simp] theorem State.closeWindow_claimAnswer : (s.closeWindow).claimAnswer = s.claimAnswer := rfl
@[simp] theorem State.closeWindow_out : (s.closeWindow).out = s.out := rfl

end

section
variable (s : State)

@[simp] theorem State.clearParser_params : (s.clearParser).params = s.params := rfl
@[simp] theorem State.clearParser_live : (s.clearParser).live = s.live := rfl
@[simp] theorem State.clearParser_role : (s.clearParser).role = s.role := rfl
@[simp] theorem State.clearParser_mode : (s.clearParser).mode = s.mode := rfl
@[simp] theorem State.clearParser_idleTicks : (s.clearParser).idleTicks = 0 := rfl
@[simp] theorem State.clearParser_req : (s.clearParser).req = s.req := rfl
@[simp] theorem State.clearParser_reqValid : (s.clearParser).reqValid = s.reqValid := rfl
@[simp] theorem State.clearParser_rxBuf : (s.clearParser).rxBuf = s.rxBuf := rfl
@[simp] theorem State.clearParser_rxLen : (s.clearParser).rxLen = 0 := rfl
@[simp] theorem State.clearParser_slots : (s.clearParser).slots = s.slots := rfl
@[simp] theorem State.clearParser_active : (s.clearParser).active = s.active := rfl
@[simp] theorem State.clearParser_port : (s.clearParser).port = s.port := rfl
@[simp] theorem State.clearParser_claimAnswer : (s.clearParser).claimAnswer = s.claimAnswer := rfl
@[simp] theorem State.clearParser_out : (s.clearParser).out = s.out := rfl

end

section
variable (s : State)

@[simp] theorem State.breakSilence_params : (s.breakSilence).params = s.params := rfl
@[simp] theorem State.breakSilence_live : (s.breakSilence).live = s.live := rfl
@[simp] theorem State.breakSilence_role : (s.breakSilence).role = s.role := rfl
@[simp] theorem State.breakSilence_mode : (s.breakSilence).mode = s.mode := rfl
@[simp] theorem State.breakSilence_idleTicks : (s.breakSilence).idleTicks = 0 := rfl
@[simp] theorem State.breakSilence_req : (s.breakSilence).req = s.req := rfl
@[simp] theorem State.breakSilence_reqValid : (s.breakSilence).reqValid = s.reqValid := rfl
@[simp] theorem State.breakSilence_rxBuf : (s.breakSilence).rxBuf = s.rxBuf := rfl
@[simp] theorem State.breakSilence_rxLen : (s.breakSilence).rxLen = s.rxLen := rfl
@[simp] theorem State.breakSilence_slots : (s.breakSilence).slots = s.slots := rfl
@[simp] theorem State.breakSilence_active : (s.breakSilence).active = s.active := rfl
@[simp] theorem State.breakSilence_port : (s.breakSilence).port = s.port := rfl
@[simp] theorem State.breakSilence_claimAnswer : (s.breakSilence).claimAnswer = s.claimAnswer := rfl
@[simp] theorem State.breakSilence_out : (s.breakSilence).out = s.out := rfl

end

section
variable (b : Byte) (s : State)

@[simp] theorem State.rxAppend_params : (s.rxAppend b).params = s.params := rfl
@[simp] theorem State.rxAppend_live : (s.rxAppend b).live = s.live := rfl
@[simp] theorem State.rxAppend_role : (s.rxAppend b).role = s.role := rfl
@[simp] theorem State.rxAppend_mode : (s.rxAppend b).mode = s.mode := rfl
@[simp] theorem State.rxAppend_idleTicks : (s.rxAppend b).idleTicks = s.idleTicks := rfl
@[simp] theorem State.rxAppend_req : (s.rxAppend b).req = s.req := rfl
@[simp] theorem State.rxAppend_reqValid : (s.rxAppend b).reqValid = s.reqValid := rfl
@[simp] theorem State.rxAppend_rxBuf : (s.rxAppend b).rxBuf = s.rxBuf.set s.rxLen.toNat b := rfl
@[simp] theorem State.rxAppend_rxLen : (s.rxAppend b).rxLen = s.rxLen + 1 := rfl
@[simp] theorem State.rxAppend_slots : (s.rxAppend b).slots = s.slots := rfl
@[simp] theorem State.rxAppend_active : (s.rxAppend b).active = s.active := rfl
@[simp] theorem State.rxAppend_port : (s.rxAppend b).port = s.port := rfl
@[simp] theorem State.rxAppend_claimAnswer : (s.rxAppend b).claimAnswer = s.claimAnswer := rfl
@[simp] theorem State.rxAppend_out : (s.rxAppend b).out = s.out := rfl

end

section
variable (s : State)

@[simp] theorem State.countTick_params : (s.countTick).params = s.params := rfl
@[simp] theorem State.countTick_live : (s.countTick).live = s.live := rfl
@[simp] theorem State.countTick_role : (s.countTick).role = s.role := rfl
@[simp] theorem State.countTick_mode : (s.countTick).mode = s.mode := rfl
@[simp] theorem State.countTick_idleTicks : (s.countTick).idleTicks = s.idleTicks + 1 := rfl
@[simp] theorem State.countTick_req : (s.countTick).req = s.req := rfl
@[simp] theorem State.countTick_reqValid : (s.countTick).reqValid = s.reqValid := rfl
@[simp] theorem State.countTick_rxBuf : (s.countTick).rxBuf = s.rxBuf := rfl
@[simp] theorem State.countTick_rxLen : (s.countTick).rxLen = s.rxLen := rfl
@[simp] theorem State.countTick_slots : (s.countTick).slots = s.slots := rfl
@[simp] theorem State.countTick_active : (s.countTick).active = s.active := rfl
@[simp] theorem State.countTick_port : (s.countTick).port = s.port := rfl
@[simp] theorem State.countTick_claimAnswer : (s.countTick).claimAnswer = s.claimAnswer := rfl
@[simp] theorem State.countTick_out : (s.countTick).out = s.out := rfl

end

section
variable (i : Nat) (h : Handler) (s : State)

@[simp] theorem State.fillSlot_params : (s.fillSlot i h).params = s.params := rfl
@[simp] theorem State.fillSlot_live : (s.fillSlot i h).live = s.live := rfl
@[simp] theorem State.fillSlot_role : (s.fillSlot i h).role = s.role := rfl
@[simp] theorem State.fillSlot_mode : (s.fillSlot i h).mode = s.mode := rfl
@[simp] theorem State.fillSlot_idleTicks : (s.fillSlot i h).idleTicks = s.idleTicks := rfl
@[simp] theorem State.fillSlot_req : (s.fillSlot i h).req = s.req := rfl
@[simp] theorem State.fillSlot_reqValid : (s.fillSlot i h).reqValid = s.reqValid := rfl
@[simp] theorem State.fillSlot_rxBuf : (s.fillSlot i h).rxBuf = s.rxBuf := rfl
@[simp] theorem State.fillSlot_rxLen : (s.fillSlot i h).rxLen = s.rxLen := rfl
@[simp] theorem State.fillSlot_slots : (s.fillSlot i h).slots = s.slots.set i h := rfl
@[simp] theorem State.fillSlot_active : (s.fillSlot i h).active = if s.active.toNat ≤ i then BitVec.ofNat 8 (i + 1) else s.active := rfl
@[simp] theorem State.fillSlot_port : (s.fillSlot i h).port = s.port := rfl
@[simp] theorem State.fillSlot_claimAnswer : (s.fillSlot i h).claimAnswer = s.claimAnswer := rfl
@[simp] theorem State.fillSlot_out : (s.fillSlot i h).out = s.out := rfl

end

section
variable (i : Nat) (s : State)

@[simp] theorem State.clearSlot_params : (s.clearSlot i).params = s.params := rfl
@[simp] theorem State.clearSlot_live : (s.clearSlot i).live = s.live := rfl
@[simp] theorem State.clearSlot_role : (s.clearSlot i).role = s.role := rfl
@[simp] theorem State.clearSlot_mode : (s.clearSlot i).mode = s.mode := rfl
@[simp] theorem State.clearSlot_idleTicks : (s.clearSlot i).idleTicks = s.idleTicks := rfl
@[simp] theorem State.clearSlot_req : (s.clearSlot i).req = s.req := rfl
@[simp] theorem State.clearSlot_reqValid : (s.clearSlot i).reqValid = s.reqValid := rfl
@[simp] theorem State.clearSlot_rxBuf : (s.clearSlot i).rxBuf = s.rxBuf := rfl
@[simp] theorem State.clearSlot_rxLen : (s.clearSlot i).rxLen = s.rxLen := rfl
@[simp] theorem State.clearSlot_slots : (s.clearSlot i).slots = s.slots.set i 0 := rfl
@[simp] theorem State.clearSlot_active : (s.clearSlot i).active = if i + 1 = s.active.toNat then s.active - 1 else s.active := rfl
@[simp] theorem State.clearSlot_port : (s.clearSlot i).port = s.port := rfl
@[simp] theorem State.clearSlot_claimAnswer : (s.clearSlot i).claimAnswer = s.claimAnswer := rfl
@[simp] theorem State.clearSlot_out : (s.clearSlot i).out = s.out := rfl

end

section
variable (c : HostCommand) (rest : List HostCommand) (s : State)

@[simp] theorem State.present_params : (s.present c rest).params = s.params := rfl
@[simp] theorem State.present_live : (s.present c rest).live = s.live := rfl
@[simp] theorem State.present_role : (s.present c rest).role = s.role := rfl
@[simp] theorem State.present_mode : (s.present c rest).mode = s.mode := rfl
@[simp] theorem State.present_idleTicks : (s.present c rest).idleTicks = s.idleTicks := rfl
@[simp] theorem State.present_req : (s.present c rest).req = s.req := rfl
@[simp] theorem State.present_reqValid : (s.present c rest).reqValid = s.reqValid := rfl
@[simp] theorem State.present_rxBuf : (s.present c rest).rxBuf = s.rxBuf := rfl
@[simp] theorem State.present_rxLen : (s.present c rest).rxLen = s.rxLen := rfl
@[simp] theorem State.present_slots : (s.present c rest).slots = s.slots := rfl
@[simp] theorem State.present_active : (s.present c rest).active = s.active := rfl
@[simp] theorem State.present_port : (s.present c rest).port = rest := rfl
@[simp] theorem State.present_claimAnswer : (s.present c rest).claimAnswer = c.grant := rfl
@[simp] theorem State.present_out : (s.present c rest).out = s.out := rfl

end

section
variable (p : Params)

@[simp] theorem State.powerOn_params : (State.powerOn p).params = p := rfl
@[simp] theorem State.powerOn_live : (State.powerOn p).live = false := rfl
@[simp] theorem State.powerOn_role : (State.powerOn p).role = .master := rfl
@[simp] theorem State.powerOn_mode : (State.powerOn p).mode = .idle := rfl
@[simp] theorem State.powerOn_idleTicks : (State.powerOn p).idleTicks = 0 := rfl
@[simp] theorem State.powerOn_req : (State.powerOn p).req = ⟨0, 0, 0, 0⟩ := rfl
@[simp] theorem State.powerOn_reqValid : (State.powerOn p).reqValid = false := rfl
@[simp] theorem State.powerOn_rxBuf : (State.powerOn p).rxBuf = List.replicate p.rxCap.toNat 0 := rfl
@[simp] theorem State.powerOn_rxLen : (State.powerOn p).rxLen = 0 := rfl
@[simp] theorem State.powerOn_slots : (State.powerOn p).slots = List.replicate p.maxListeners.toNat 0 := rfl
@[simp] theorem State.powerOn_active : (State.powerOn p).active = 0 := rfl
@[simp] theorem State.powerOn_port : (State.powerOn p).port = [] := rfl
@[simp] theorem State.powerOn_claimAnswer : (State.powerOn p).claimAnswer = false := rfl
@[simp] theorem State.powerOn_out : (State.powerOn p).out = none := rfl

end

end Sys2Proof.Machine
end

