-- ==== Sys2Proof/Laws/Ops.lean ====
section
/-! SUPPORT. One lemma for each shared operation that says once everything it can do. -/

namespace Sys2Proof.Machine

/-! ### The end of a command -/

@[simp] theorem finish_eq (code : ResultCode) (ints : List Interaction) (dels : List Delivery) (s : State) :
    finish code ints dels s = .next (s.putOut ⟨code, ints, dels⟩) := rfl

@[simp] theorem fail_eq (code : ResultCode) (ints : List Interaction) (s : State) :
    fail code ints s = .next (s.putOut ⟨code, ints, []⟩) := rfl

theorem whenLive_of_live {s : State} (h : s.live = true) (body : State → Host.Outcome State Fault Refusal) :
    whenLive s body = body s := by
  simp [whenLive, h]

theorem whenLive_of_not_live {s : State} (h : s.live = false) (body : State → Host.Outcome State Fault Refusal) :
    whenLive s body = .next (s.putOut ⟨.notInitialised, [], []⟩) := by
  simp [whenLive, h]

/-! ### The receive buffer -/

/-- What one inbound byte can do (42_receive.md R73). -/
theorem acceptOne_cases (b : Byte) (s : State) :
    (s.mode = .idle ∧ s.params.acceptInIdle = .drop ∧ acceptOne b s = s) ∨
    (¬(s.mode = .idle ∧ s.params.acceptInIdle = .drop) ∧ s.rxLen < s.params.rxCap ∧
      acceptOne b s = s.breakSilence.rxAppend b) ∨
    (¬(s.mode = .idle ∧ s.params.acceptInIdle = .drop) ∧ ¬ s.rxLen < s.params.rxCap ∧
      acceptOne b s = s.breakSilence) := by
  unfold acceptOne
  split
  · rename_i h; exact .inl ⟨h.1, h.2, rfl⟩
  · rename_i h
    split
    · rename_i h'; exact .inr (.inl ⟨h, h', rfl⟩)
    · rename_i h'; exact .inr (.inr ⟨h, h', rfl⟩)

section
variable (b : Byte) (s : State)

@[simp] theorem acceptOne_params : (acceptOne b s).params = s.params := by
  rcases acceptOne_cases b s with ⟨_, _, e⟩ | ⟨_, _, e⟩ | ⟨_, _, e⟩ <;> simp [e]

@[simp] theorem acceptOne_live : (acceptOne b s).live = s.live := by
  rcases acceptOne_cases b s with ⟨_, _, e⟩ | ⟨_, _, e⟩ | ⟨_, _, e⟩ <;> simp [e]

@[simp] theorem acceptOne_role : (acceptOne b s).role = s.role := by
  rcases acceptOne_cases b s with ⟨_, _, e⟩ | ⟨_, _, e⟩ | ⟨_, _, e⟩ <;> simp [e]

@[simp] theorem acceptOne_mode : (acceptOne b s).mode = s.mode := by
  rcases acceptOne_cases b s with ⟨_, _, e⟩ | ⟨_, _, e⟩ | ⟨_, _, e⟩ <;> simp [e]

@[simp] theorem acceptOne_req : (acceptOne b s).req = s.req := by
  rcases acceptOne_cases b s with ⟨_, _, e⟩ | ⟨_, _, e⟩ | ⟨_, _, e⟩ <;> simp [e]

@[simp] theorem acceptOne_reqValid : (acceptOne b s).reqValid = s.reqValid := by
  rcases acceptOne_cases b s with ⟨_, _, e⟩ | ⟨_, _, e⟩ | ⟨_, _, e⟩ <;> simp [e]

@[simp] theorem acceptOne_slots : (acceptOne b s).slots = s.slots := by
  rcases acceptOne_cases b s with ⟨_, _, e⟩ | ⟨_, _, e⟩ | ⟨_, _, e⟩ <;> simp [e]

@[simp] theorem acceptOne_active : (acceptOne b s).active = s.active := by
  rcases acceptOne_cases b s with ⟨_, _, e⟩ | ⟨_, _, e⟩ | ⟨_, _, e⟩ <;> simp [e]

@[simp] theorem acceptOne_port : (acceptOne b s).port = s.port := by
  rcases acceptOne_cases b s with ⟨_, _, e⟩ | ⟨_, _, e⟩ | ⟨_, _, e⟩ <;> simp [e]

@[simp] theorem acceptOne_claimAnswer : (acceptOne b s).claimAnswer = s.claimAnswer := by
  rcases acceptOne_cases b s with ⟨_, _, e⟩ | ⟨_, _, e⟩ | ⟨_, _, e⟩ <;> simp [e]

@[simp] theorem acceptOne_out : (acceptOne b s).out = s.out := by
  rcases acceptOne_cases b s with ⟨_, _, e⟩ | ⟨_, _, e⟩ | ⟨_, _, e⟩ <;> simp [e]

@[simp] theorem acceptOne_rxBuf_length : (acceptOne b s).rxBuf.length = s.rxBuf.length := by
  rcases acceptOne_cases b s with ⟨_, _, e⟩ | ⟨_, _, e⟩ | ⟨_, _, e⟩ <;> simp [e]

end

@[simp] theorem acceptBytes_nil (s : State) : acceptBytes [] s = s := rfl

@[simp] theorem acceptBytes_cons (b : Byte) (bs : List Byte) (s : State) :
    acceptBytes (b :: bs) s = acceptBytes bs (acceptOne b s) := rfl

theorem acceptBytes_append (bs cs : List Byte) (s : State) :
    acceptBytes (bs ++ cs) s = acceptBytes cs (acceptBytes bs s) := by
  simp [acceptBytes]

/-- A burst changes nothing but the buffer, its length and the idle counter (R74). -/
theorem acceptBytes_frame (bs : List Byte) (s : State) :
    (acceptBytes bs s).params = s.params ∧ (acceptBytes bs s).live = s.live ∧ (acceptBytes bs s).role = s.role ∧
    (acceptBytes bs s).mode = s.mode ∧ (acceptBytes bs s).req = s.req ∧ (acceptBytes bs s).reqValid = s.reqValid ∧
    (acceptBytes bs s).slots = s.slots ∧ (acceptBytes bs s).active = s.active ∧ (acceptBytes bs s).port = s.port ∧
    (acceptBytes bs s).claimAnswer = s.claimAnswer ∧ (acceptBytes bs s).out = s.out ∧
    (acceptBytes bs s).rxBuf.length = s.rxBuf.length := by
  induction bs generalizing s with
  | nil => simp
  | cons b bs ih => simpa using ih (acceptOne b s)

/-- The held bytes are readable exactly while `rx_len` is within the buffer. -/
theorem rxBytes_eq_some {s : State} {bs : List Byte} :
    s.rxBytes = some bs ↔ s.rxLen.toNat ≤ s.rxBuf.length ∧ bs = s.rxBuf.take s.rxLen.toNat := by
  unfold State.rxBytes
  split <;> simp_all [eq_comm]

/-! ### The registry -/

theorem firstSlot_eq_none {h : Handler} {l : List Handler} : firstSlot h l = none ↔ h ∉ l := by
  induction l with
  | nil => simp [firstSlot]
  | cons x xs ih =>
    unfold firstSlot
    split
    · simp_all
    · simp_all [eq_comm]

/-- The scan stops at the first index that holds `h` (44_registry.md R90, R91). -/
theorem firstSlot_eq_some {h : Handler} {l : List Handler} {i : Nat} :
    firstSlot h l = some i ↔ l[i]? = some h ∧ ∀ j, j < i → l[j]? ≠ some h := by
  induction l generalizing i with
  | nil => simp [firstSlot]
  | cons x xs ih =>
    unfold firstSlot
    split
    · rename_i e
      subst e
      cases i with
      | zero => simp
      | succ n => simp only [Option.some.injEq, List.getElem?_cons_succ, false_iff, Nat.zero_ne_add_one]
                  exact fun hc => hc.2 0 (by omega) (by simp)
    · rename_i e
      cases i with
      | zero => simp [e]
      | succ n =>
        simp only [Option.map_eq_some_iff, Nat.add_right_cancel_iff, exists_eq_right, ih, List.getElem?_cons_succ]
        refine and_congr_right fun _ => ⟨fun hj j hlt => ?_, fun hj j hlt => ?_⟩
        · cases j with
          | zero => simpa using e
          | succ m => simpa using hj m (by omega)
        · simpa using hj (j + 1) (by omega)

theorem firstSlot_lt {h : Handler} {l : List Handler} {i : Nat} (e : firstSlot h l = some i) : i < l.length := by
  rw [firstSlot_eq_some] at e
  exact (List.getElem?_eq_some_iff.mp e.1).1

/-! ### The end of a window -/

/-- What a finalize answers where `req` and the held bytes have values (43_decode_tick.md R87). -/
theorem finalize_eq {s : State} {bs : List Byte} (hq : s.reqValid = true) (hb : s.rxBytes = some bs) :
    finalize s = .next (s.closeWindow.putOut ⟨.ok, [], dispatch (decodeResponse s.req bs) s⟩) := by
  simp [finalize, hq, hb]

/-- Everything a finalize can do. -/
theorem finalize_cases (s : State) :
    (∃ bs, s.reqValid = true ∧ s.rxBytes = some bs ∧
      finalize s = .next (s.closeWindow.putOut ⟨.ok, [], dispatch (decodeResponse s.req bs) s⟩)) ∨
    (s.reqValid = true ∧ s.rxBytes = none ∧ finalize s = .fault (.noValue (.rxBuf s.rxBuf.length))) ∨
    (s.reqValid = false ∧ finalize s = .fault (.noValue .req)) := by
  unfold finalize
  cases hq : s.reqValid
  · simp
  · cases hb : s.rxBytes <;> simp

end Sys2Proof.Machine
end

