-- ==== Sys2Proof/Laws/Exec.lean ====
section
/-! SUPPORT. Everything a command can do, said once: `Effect i s t` lists the next states of `exec i s`, one constructor for each path
of the spec's pseudocode, and `exec_next_iff` says that there are no others. Later proofs do case analysis on `Effect` and unfold no
meaning. -/

namespace Sys2Proof.Machine

/-- Whether a TICK in WAIT finalizes (43_decode_tick.md R86), in numbers. -/
abbrev State.Finalizes (s : State) : Prop :=
  s.params.timeoutTicks.toNat ≤ s.idleTicks.toNat ∨
    s.params.tickFinalize = .sameTick ∧ s.params.timeoutTicks.toNat ≤ s.idleTicks.toNat + 1

inductive Effect : Instr → State → State → Prop where
  | created (r : Role) (s : State) : s.live = false → Effect (.init r) s ((s.create r).putOut ⟨.ok, [], []⟩)
  | alreadyLive (r : Role) (s : State) : s.live = true → Effect (.init r) s (s.putOut ⟨.alreadyInitialised, [], []⟩)
  | notLive (i : Instr) (s : State) : s.live = false → (∀ r, i ≠ .init r) →
      Effect i s (s.putOut ⟨.notInitialised, [], []⟩)
  | destroyed (s : State) : s.live = true → Effect .deinit s (s.destroy.putOut ⟨.ok, [], []⟩)
  | denied (a f : Byte) (r d : Half) (s : State) : s.live = true → s.claimAnswer = false →
      Effect (.send a f r d) s (s.putOut ⟨.transmitDenied, [.claim], []⟩)
  | busy (a f : Byte) (r d : Half) (s : State) : s.live = true → s.claimAnswer = true → s.mode = .wait →
      Effect (.send a f r d) s (s.putOut ⟨.engineBusy, [.claim, .release], []⟩)
  | sent (a f : Byte) (r d : Half) (s : State) : s.live = true → s.claimAnswer = true → s.mode = .idle →
      Effect (.send a f r d) s
        ((s.openWindow ⟨a, f, r, d⟩).putOut ⟨.ok, [.claim, .write 8 (build ⟨a, f, r, d⟩), .release], []⟩)
  | byte (b : Byte) (s : State) : s.live = true → Effect (.acceptByte b) s ((acceptOne b s).putOut ⟨.ok, [], []⟩)
  | burst (bs : List Byte) (s : State) : s.live = true →
      Effect (.accept bs) s ((acceptBytes bs s).putOut ⟨.ok, [], []⟩)
  | cleared (s : State) : s.live = true → Effect .resetParser s (s.clearParser.putOut ⟨.ok, [], []⟩)
  | idleTick (s : State) : s.live = true → s.mode = .idle → Effect .tick s (s.putOut ⟨.ok, [], []⟩)
  | counted (s : State) : s.live = true → s.mode = .wait → ¬ s.Finalizes →
      Effect .tick s (s.countTick.putOut ⟨.ok, [], []⟩)
  | finalized (bs : List Byte) (s : State) : s.live = true → s.mode = .wait → s.Finalizes → s.reqValid = true →
      s.rxBytes = some bs →
      Effect .tick s (s.closeWindow.putOut ⟨.ok, [], dispatch (decodeResponse s.req bs) s⟩)
  | addedNull (s : State) : s.live = true → Effect (.addListener 0) s (s.putOut ⟨.invalidHandler, [], []⟩)
  | tableFull (h : Handler) (s : State) : s.live = true → h ≠ 0 → s.firstEmpty = none →
      Effect (.addListener h) s (s.putOut ⟨.listenerTableFull, [], []⟩)
  | added (h : Handler) (i : Nat) (s : State) : s.live = true → h ≠ 0 → s.firstEmpty = some i →
      Effect (.addListener h) s ((s.fillSlot i h).putOut ⟨.ok, [], []⟩)
  | removedNull (s : State) : s.live = true → Effect (.removeListener 0) s (s.putOut ⟨.invalidHandler, [], []⟩)
  | notFound (h : Handler) (s : State) : s.live = true → h ≠ 0 → s.firstMatch h = none →
      Effect (.removeListener h) s (s.putOut ⟨.listenerNotFound, [], []⟩)
  | removed (h : Handler) (i : Nat) (s : State) : s.live = true → h ≠ 0 → s.firstMatch h = some i →
      Effect (.removeListener h) s ((s.clearSlot i).putOut ⟨.ok, [], []⟩)

theorem TickFinalize.cases (f : TickFinalize) : f = .elseBranch ∨ f = .sameTick := by cases f <;> simp

/-- Every command but INIT while `live` = 0 (60_exceptions.md R102). -/
theorem exec_of_not_live {i : Instr} {s : State} (hl : s.live = false) (hi : ∀ r, i ≠ .init r) :
    exec i s = .next (s.putOut ⟨.notInitialised, [], []⟩) := by
  cases i
  case init r => exact absurd rfl (hi r)
  all_goals simp [exec, execDeinit, execSend, execAcceptByte, execAccept, execResetParser, execTick, execAddListener,
    execRemoveListener, whenLive_of_not_live hl]

/-- Counting before the finalize changes nothing a finalize reads or leaves (the two branches of SAME_TICK, R86). -/
theorem finalize_countTick (s : State) : finalize s.countTick = finalize s := rfl

/-- TICK in WAIT, under both values of TICK_FINALIZE (R86). -/
theorem execTick_wait {s : State} (hl : s.live = true) (hm : s.mode = .wait) :
    execTick s = if s.Finalizes then finalize s else .next (s.countTick.putOut ⟨.ok, [], []⟩) := by
  have hlt := s.params.timeoutTicks.isLt
  have hi := s.idleTicks.isLt
  simp only [execTick, whenLive_of_live hl, hm, reduceCtorEq, if_false]
  rcases TickFinalize.cases s.params.tickFinalize with hf | hf
  · simp only [tickElseBranch, BitVec.lt_def, State.Finalizes, hf, reduceCtorEq, false_and, or_false, finish_eq]
    by_cases h : s.idleTicks.toNat < s.params.timeoutTicks.toNat
    · rw [if_pos h, if_neg (by omega)]
    · rw [if_neg h, if_pos (by omega)]
  · simp only [tickSameTick, tickCounted, BitVec.lt_def, BitVec.le_def, State.Finalizes, hf, true_and, finish_eq]
    by_cases h : s.idleTicks.toNat < s.params.timeoutTicks.toNat
    · have hn : (s.idleTicks + 1).toNat = s.idleTicks.toNat + 1 := by
        rw [BitVec.toNat_add_of_not_uaddOverflow] <;> simp [BitVec.uaddOverflow]; omega
      simp only [if_pos h, State.countTick_idleTicks, hn, finalize_countTick]
      by_cases h' : s.params.timeoutTicks.toNat ≤ s.idleTicks.toNat + 1
      · rw [if_pos h', if_pos (by omega)]
      · rw [if_neg h', if_neg (by omega)]
    · rw [if_neg h, if_pos (by omega), if_pos (by omega)]

/-- The only way a command stops: a finalize that would read an element without a value (10_state.md R31). -/
theorem exec_fault {i : Instr} {s : State} {f : Fault} (h : exec i s = .fault f) :
    i = .tick ∧ s.live = true ∧ s.mode = .wait ∧ s.Finalizes ∧ (s.reqValid = false ∨ s.rxBytes = none) := by
  cases i
  case tick =>
    cases hl : s.live
    · simp [exec, execTick, whenLive_of_not_live hl] at h
    · cases hm : s.mode
      · simp [exec, execTick, whenLive_of_live hl, hm] at h
      · simp only [exec, execTick_wait hl hm] at h
        split at h
        · rename_i hf
          rcases finalize_cases s with ⟨bs, hq, hb, e⟩ | ⟨hq, hb, e⟩ | ⟨hq, e⟩
          · rw [e] at h; cases h
          · exact ⟨rfl, rfl, rfl, hf, .inr hb⟩
          · exact ⟨rfl, rfl, rfl, hf, .inl hq⟩
        · cases h
  all_goals
    simp only [exec, execInit, execDeinit, execSend, execAcceptByte, execAccept, execResetParser, execAddListener,
      execRemoveListener, whenLive, finish_eq, fail_eq] at h
    repeat' split at h
    all_goals cases h

theorem exec_not_refused {i : Instr} {s : State} {r : Refusal} : exec i s ≠ .refused r := by
  intro h
  cases i
  case tick =>
    cases hl : s.live
    · simp [exec, execTick, whenLive_of_not_live hl] at h
    · cases hm : s.mode
      · simp [exec, execTick, whenLive_of_live hl, hm] at h
      · simp only [exec, execTick_wait hl hm] at h
        split at h
        · rcases finalize_cases s with ⟨bs, _, _, e⟩ | ⟨_, _, e⟩ | ⟨_, e⟩ <;> rw [e] at h <;> cases h
        · cases h
  all_goals
    simp only [exec, execInit, execDeinit, execSend, execAcceptByte, execAccept, execResetParser, execAddListener,
      execRemoveListener, whenLive, finish_eq, fail_eq] at h
    repeat' split at h
    all_goals cases h

/-- Each path of `Effect` is what `exec` does. -/
theorem exec_of_effect {i : Instr} {s t : State} (h : Effect i s t) : exec i s = .next t := by
  cases h with
  | notLive i s hl hi => exact exec_of_not_live hl hi
  | counted s hl hm hf => rw [exec, execTick_wait hl hm, if_neg hf]
  | finalized bs s hl hm hf hq hb => rw [exec, execTick_wait hl hm, if_pos hf, finalize_eq hq hb]
  | _ => simp_all [exec, execInit, execDeinit, execSend, execAcceptByte, execAccept, execResetParser, execTick,
      execAddListener, execRemoveListener, whenLive]

/-- `exec` does nothing but the paths of `Effect`. -/
theorem effect_of_exec {i : Instr} {s t : State} (h : exec i s = .next t) : Effect i s t := by
  cases hl : s.live
  · cases i
    case init r =>
      simp only [exec, execInit, hl, Bool.false_eq_true, if_false, finish_eq, Host.Outcome.next.injEq] at h
      subst h; exact .created r s hl
    all_goals
      rw [exec_of_not_live hl (by simp)] at h
      cases h; exact .notLive _ s hl (by simp)
  · cases i
    case init r =>
      simp only [exec, execInit, hl, if_true, fail_eq, Host.Outcome.next.injEq] at h
      subst h; exact .alreadyLive r s hl
    case send a f r d =>
      simp only [exec, execSend, whenLive_of_live hl] at h
      cases hg : s.claimAnswer
      · simp only [hg, Bool.not_false, if_true, fail_eq, Host.Outcome.next.injEq] at h
        subst h; exact .denied a f r d s hl hg
      · cases hm : s.mode <;> simp only [hg, hm, ne_eq, not_true, reduceCtorEq, not_false_eq_true, Bool.not_true,
          Bool.false_eq_true, if_true, if_false, fail_eq, finish_eq, Host.Outcome.next.injEq] at h <;> subst h
        · exact .sent a f r d s hl hg hm
        · exact .busy a f r d s hl hg hm
    case tick =>
      cases hm : s.mode
      · simp only [exec, execTick, whenLive_of_live hl, hm, if_true, finish_eq, Host.Outcome.next.injEq] at h
        subst h; exact .idleTick s hl hm
      · simp only [exec, execTick_wait hl hm] at h
        split at h
        · rename_i hf
          rcases finalize_cases s with ⟨bs, hq, hb, e⟩ | ⟨_, _, e⟩ | ⟨_, e⟩ <;> rw [e] at h <;> cases h
          exact .finalized bs s hl hm hf hq hb
        · cases h; exact .counted s hl hm ‹_›
    case addListener x =>
      simp only [exec, execAddListener, whenLive_of_live hl] at h
      split at h
      · rename_i hx; cases h; subst hx; exact .addedNull s hl
      · split at h
        · cases h; exact .added x _ s hl ‹_› ‹_›
        · cases h; exact .tableFull x s hl ‹_› ‹_›
    case removeListener x =>
      simp only [exec, execRemoveListener, whenLive_of_live hl] at h
      split at h
      · rename_i hx; cases h; subst hx; exact .removedNull s hl
      · split at h
        · cases h; exact .removed x _ s hl ‹_› ‹_›
        · cases h; exact .notFound x s hl ‹_› ‹_›
    all_goals
      simp only [exec, execDeinit, execAcceptByte, execAccept, execResetParser, whenLive_of_live hl, finish_eq,
        Host.Outcome.next.injEq] at h
      subst h
      constructor
      exact hl

/-- The next states of `exec` are exactly those of `Effect`. -/
theorem exec_next_iff {i : Instr} {s t : State} : exec i s = .next t ↔ Effect i s t :=
  ⟨effect_of_exec, exec_of_effect⟩

/-- A step that answers a next state either had nothing to run, or ran a command, or reported an illegal word. -/
theorem step_next_cases {s t : State} (h : step s = .next t) :
    s.params.valid = true ∧
    ((s.port = [] ∧ t = s) ∨
     ∃ c rest, s.port = c :: rest ∧
      ((∃ i, decode c.word = some i ∧ Effect i (s.present c rest) t) ∨
       (decode c.word = none ∧ t = (s.present c rest).putOut ⟨.illegalCommand, [], []⟩))) := by
  unfold step at h
  split at h
  · rename_i hv
    refine ⟨hv, ?_⟩
    unfold fetch at h
    cases hp : s.port with
    | nil => simp only [hp] at h; cases h; exact .inl ⟨rfl, rfl⟩
    | cons c rest =>
      simp only [hp] at h
      refine .inr ⟨c, rest, rfl, ?_⟩
      cases hd : decode c.word with
      | none => simp only [hd, illegalCommand, fail_eq] at h; cases h; exact .inr ⟨rfl, rfl⟩
      | some i => simp only [hd] at h; exact .inl ⟨i, rfl, effect_of_exec h⟩
  · cases h

end Sys2Proof.Machine
end

