-- ==== Sys2Proof/Laws/PerInstr.lean ====
section
/-! SUPPORT. Statements about every command as syntax. Family Opcode: the opcode field of a command's word is its opcode (30_encoding.md
R49, R52). -/

namespace Sys2Proof.Laws.Opcode

def Statement (i : Instr) : Prop := opcodeField (encode i) = i.opcode

theorem init (role : Role) : Statement (.init role) := by
  change BitVec.extractLsb' 56 8 (0x01#8 ++ 0#55 ++ role.bit) = 0x01#8
  rw [field_high _ _ _ _ (by decide), field_high _ _ _ _ (by decide)]
  decide

theorem deinit : Statement .deinit := by
  change BitVec.extractLsb' 56 8 (0x02#8 ++ 0#56) = 0x02#8
  decide

theorem send (addr func : Byte) (reg data : Half) : Statement (.send addr func reg data) := by
  change BitVec.extractLsb' 56 8 (0x10#8 ++ addr ++ func ++ reg ++ data ++ 0#8) = 0x10#8
  rw [field_high _ _ _ _ (by decide), field_high _ _ _ _ (by decide), field_high _ _ _ _ (by decide),
    field_high _ _ _ _ (by decide), field_high _ _ _ _ (by decide)]
  decide

theorem acceptByte (b : Byte) : Statement (.acceptByte b) := by
  change BitVec.extractLsb' 56 8 (0x20#8 ++ 0#48 ++ b) = 0x20#8
  rw [field_high _ _ _ _ (by decide), field_high _ _ _ _ (by decide)]
  decide

theorem accept (bytes : List Byte) : Statement (.accept bytes) := by
  change BitVec.extractLsb' 56 8 (0x21#8 ++ 0#5 ++ BitVec.ofNat 3 bytes.length ++ bytes.getD 0 0 ++ bytes.getD 1 0 ++
    bytes.getD 2 0 ++ bytes.getD 3 0 ++ bytes.getD 4 0 ++ bytes.getD 5 0) = 0x21#8
  rw [field_high _ _ _ _ (by decide), field_high _ _ _ _ (by decide), field_high _ _ _ _ (by decide),
    field_high _ _ _ _ (by decide), field_high _ _ _ _ (by decide), field_high _ _ _ _ (by decide),
    field_high _ _ _ _ (by decide), field_high _ _ _ _ (by decide)]
  decide

theorem resetParser : Statement .resetParser := by
  change BitVec.extractLsb' 56 8 (0x22#8 ++ 0#56) = 0x22#8
  decide

theorem tick : Statement .tick := by
  change BitVec.extractLsb' 56 8 (0x30#8 ++ 0#56) = 0x30#8
  decide

theorem addListener (h : Handler) : Statement (.addListener h) := by
  change BitVec.extractLsb' 56 8 (0x40#8 ++ 0#40 ++ h) = 0x40#8
  rw [field_high _ _ _ _ (by decide), field_high _ _ _ _ (by decide)]
  decide

theorem removeListener (h : Handler) : Statement (.removeListener h) := by
  change BitVec.extractLsb' 56 8 (0x41#8 ++ 0#40 ++ h) = 0x41#8
  rw [field_high _ _ _ _ (by decide), field_high _ _ _ _ (by decide)]
  decide

end Sys2Proof.Laws.Opcode
end

