-- ==== Sys2Proof/Laws/Storage.lean ====
section
/-! SUPPORT. The laws of the storage: the receive buffer as the list of its held bytes, the registry as the list of its handlers, and
that every operation keeps their shape. -/

namespace Sys2Proof.Machine

/-! ### Agreement of states -/

/-- Putting out changes no element. -/
theorem State.sameElements_putOut (s : State) (o : Output) : s.SameElements (s.putOut o) := by
  simp [State.SameElements]

theorem State.sameElements_refl (s : State) : s.SameElements s := by
  simp [State.SameElements]

@[simp] theorem State.finalizes_putOut (s : State) (o : Output) : (s.putOut o).Finalizes ↔ s.Finalizes := Iff.rfl

@[simp] theorem State.rxBytes_putOut (s : State) (o : Output) : (s.putOut o).rxBytes = s.rxBytes := rfl

@[simp] theorem State.rxBytes_present (s : State) (c : HostCommand) (rest : List HostCommand) :
    (s.present c rest).rxBytes = s.rxBytes := rfl

@[simp] theorem State.rxBytes_countTick (s : State) : s.countTick.rxBytes = s.rxBytes := rfl

@[simp] theorem State.rxBytes_openWindow (s : State) (q : Request) : (s.openWindow q).rxBytes = some [] := by
  simp [State.rxBytes]

@[simp] theorem State.putOut_putOut (s : State) (o o' : Output) : (s.putOut o).putOut o' = s.putOut o' := rfl

/-- Bytes are taken in whatever was put out before. -/
theorem acceptOne_putOut (b : Byte) (s : State) (o : Output) : acceptOne b (s.putOut o) = (acceptOne b s).putOut o := by
  rcases acceptOne_cases b s with ⟨h1, h2, e⟩ | ⟨h1, h2, e⟩ | ⟨h1, h2, e⟩
  · rw [e, acceptOne, if_pos ⟨h1, h2⟩]
  · rw [e, acceptOne, if_neg (by exact h1), if_pos (by exact h2)]; rfl
  · rw [e, acceptOne, if_neg (by exact h1), if_neg (by exact h2)]; rfl

theorem acceptBytes_putOut (bs : List Byte) (s : State) (o : Output) :
    acceptBytes bs (s.putOut o) = (acceptBytes bs s).putOut o := by
  induction bs generalizing s with
  | nil => rfl
  | cons b bs ih => simp only [acceptBytes_cons, acceptOne_putOut, ih]

/-- Cutting off at a length and adding more at the end, then cutting off again. -/
theorem take_append_take {α : Type} (n : Nat) (xs ys : List α) : (xs.take n ++ ys).take n = (xs ++ ys).take n := by
  rw [List.take_append, List.take_append, List.take_take, List.length_take]
  congr 2
  · simp
  · omega

/-! ### Counters below a bound do not wrap -/

/-- A 16-bit counter below a 16-bit bound counts without wrapping (10_state.md R20, R24). -/
theorem toNat_add_one {x y : Half} (h : x < y) : (x + 1).toNat = x.toNat + 1 := by
  have hx := BitVec.lt_def.mp h
  have hy := y.isLt
  have h1 : (1 : Half).toNat = 1 := rfl
  rw [BitVec.toNat_add, h1, Nat.mod_eq_of_lt (by omega)]

/-! ### The receive buffer -/

theorem State.rxBytes_of_shape {s : State} (hb : s.rxBuf.length = s.params.rxCap.toNat) (hl : s.rxLen ≤ s.params.rxCap) :
    s.rxBytes = some (s.rxBuf.take s.rxLen.toNat) := by
  rw [rxBytes_eq_some]
  exact ⟨by rw [hb]; exact BitVec.le_def.mp hl, rfl⟩

/-- `rx_len` is the number of held bytes. -/
theorem State.rxBytes_length {s : State} {held : List Byte} (h : s.rxBytes = some held) :
    held.length = s.rxLen.toNat := by
  obtain ⟨hl, rfl⟩ := rxBytes_eq_some.mp h
  simp [hl]

theorem acceptOne_rxLen_le {b : Byte} {s : State} (h : s.rxLen ≤ s.params.rxCap) :
    (acceptOne b s).rxLen ≤ s.params.rxCap := by
  rcases acceptOne_cases b s with ⟨_, _, e⟩ | ⟨_, hlt, e⟩ | ⟨_, _, e⟩
  · simpa [e] using h
  · rw [e, BitVec.le_def]
    simp only [State.rxAppend_rxLen, State.breakSilence_rxLen]
    have := toNat_add_one hlt
    have := BitVec.lt_def.mp hlt
    omega
  · simpa [e] using h

theorem acceptOne_idleTicks_le {b : Byte} {s : State} (h : s.idleTicks ≤ s.params.timeoutTicks) :
    (acceptOne b s).idleTicks ≤ s.params.timeoutTicks := by
  rcases acceptOne_cases b s with ⟨_, _, e⟩ | ⟨_, _, e⟩ | ⟨_, _, e⟩
  · simpa [e] using h
  · simp [e, BitVec.le_def]
  · simp [e, BitVec.le_def]

/-- One inbound byte follows the held ones, if it fits (42_receive.md R73). -/
theorem rxBytes_acceptOne {b : Byte} {s : State} {held : List Byte} (hb : s.rxBuf.length = s.params.rxCap.toNat)
    (hl : s.rxLen ≤ s.params.rxCap) (hm : s.mode = .wait ∨ s.params.acceptInIdle = .append) (hh : s.rxBytes = some held) :
    (acceptOne b s).rxBytes = some ((held ++ [b]).take s.params.rxCap.toNat) ∧ (acceptOne b s).idleTicks = 0 := by
  have hlen := State.rxBytes_length hh
  have hle := BitVec.le_def.mp hl
  obtain ⟨hx, rfl⟩ := rxBytes_eq_some.mp hh
  rcases acceptOne_cases b s with ⟨h1, h2, _⟩ | ⟨_, hlt, e⟩ | ⟨_, hge, e⟩
  · rcases hm with h | h
    · rw [h] at h1; cases h1
    · rw [h] at h2; cases h2
  · have hlt' := BitVec.lt_def.mp hlt
    refine ⟨?_, by simp [e]⟩
    rw [e, rxBytes_eq_some]
    simp only [State.rxAppend_rxLen, State.breakSilence_rxLen, State.rxAppend_rxBuf, State.breakSilence_rxBuf,
      List.length_set]
    rw [toNat_add_one hlt]
    refine ⟨by omega, ?_⟩
    rw [List.take_of_length_le (by simp; omega), List.take_set, List.take_add_one,
      List.getElem?_eq_getElem (by omega)]
    rw [List.set_append_right _ _ (by simp)]
    simp [Nat.min_eq_left hx]
  · have hge' : s.params.rxCap.toNat ≤ s.rxLen.toNat := by
      rw [BitVec.lt_def] at hge; omega
    refine ⟨?_, by simp [e]⟩
    rw [e, rxBytes_eq_some]
    refine ⟨hx, ?_⟩
    rw [List.take_append_of_le_length (by simp; omega), List.take_take]
    simp
    omega

/-! ### The registry -/

/-- Below `active` lies every occupied slot (10_state.md R21, 44_registry.md R92). -/
theorem State.listeners_eq_filter {s : State} (h : ∀ x ∈ s.slots.drop s.active.toNat, x = 0) :
    s.listeners = s.slots.filter (· ≠ 0) := by
  conv_rhs => rw [← List.take_append_drop s.active.toNat s.slots, List.filter_append]
  have hz : (s.slots.drop s.active.toNat).filter (· ≠ 0) = [] :=
    List.filter_eq_nil_iff.mpr fun x hx => by simp [h x hx]
  rw [hz, List.append_nil, State.listeners]

/-- Slots from an index on are empty, stated by index. -/
theorem drop_all_zero_iff {l : List Handler} {n : Nat} :
    (∀ x ∈ l.drop n, x = 0) ↔ ∀ j, n ≤ j → j < l.length → l[j]? = some 0 := by
  constructor
  · intro h j hn hj
    rw [List.getElem?_eq_getElem hj]
    congr 1
    apply h
    rw [List.mem_iff_getElem]
    exact ⟨j - n, by simp; omega, by simp [Nat.add_sub_cancel' hn]⟩
  · intro h x hx
    obtain ⟨k, hk, rfl⟩ := List.mem_iff_getElem.mp hx
    simp only [List.length_drop] at hk
    have := h (n + k) (by omega) (by omega)
    rw [List.getElem?_eq_getElem (by omega)] at this
    simpa using this

theorem State.fillSlot_active_toNat {s : State} {i : Nat} {h : Handler} (hi : i < 255) :
    (s.fillSlot i h).active.toNat = if s.active.toNat ≤ i then i + 1 else s.active.toNat := by
  simp only [State.fillSlot_active]
  split
  · simp; omega
  · rfl

theorem State.clearSlot_active_toNat {s : State} {i : Nat} :
    (s.clearSlot i).active.toNat = if i + 1 = s.active.toNat then s.active.toNat - 1 else s.active.toNat := by
  simp only [State.clearSlot_active]
  split
  · rename_i h
    have := s.active.isLt
    rw [BitVec.toNat_sub_of_le (by rw [BitVec.le_def]; simp; omega)]
    simp
  · rfl

/-- What a scan below `active` finds is a slot of the table below `active`. -/
theorem State.firstMatch_eq_some {s : State} {h : Handler} {i : Nat} (e : s.firstMatch h = some i) :
    i < s.active.toNat ∧ s.slots[i]? = some h ∧ ∀ j, j < i → s.slots[j]? ≠ some h := by
  have hlt := firstSlot_lt e
  simp only [List.length_take] at hlt
  obtain ⟨h1, h2⟩ := firstSlot_eq_some.mp e
  have hi : i < s.active.toNat := by omega
  refine ⟨hi, ?_, fun j hj => ?_⟩
  · rwa [List.getElem?_take_of_lt hi] at h1
  · have := h2 j hj
    rwa [List.getElem?_take_of_lt (by omega)] at this

end Sys2Proof.Machine
end

