-- ==== Sys2Proof/Laws/Runs.lean ====
section
/-! SUPPORT. Runs of steps: how they unfold and how they join. -/

namespace Sys2Proof.Machine

theorem runSteps_zero (s : State) : runSteps 0 s = some s := rfl

theorem runSteps_succ {k : Nat} {s t : State} (h : step s = .next t) : runSteps (k + 1) s = runSteps k t := by
  simp only [runSteps, Host.Core.run, Sys2Proof.core, h]

/-- A run of j + k steps is a run of j and then one of k. -/
theorem runSteps_add {j k : Nat} {s t : State} (h : runSteps j s = some t) : runSteps (j + k) s = runSteps k t := by
  induction j generalizing s with
  | zero => rw [runSteps_zero] at h; cases h; rw [Nat.zero_add]
  | succ j ih =>
    rw [Nat.add_right_comm]
    cases hs : step s with
    | next u =>
      rw [runSteps_succ hs] at h ⊢
      exact ih h
    | fault f => simp [runSteps, Host.Core.run, Sys2Proof.core, hs] at h
    | refused r => simp [runSteps, Host.Core.run, Sys2Proof.core, hs] at h

/-- A step whose presented word decodes runs the command (00_scope.md R14). -/
theorem step_of_effect {s t : State} {c : HostCommand} {rest : List HostCommand} {i : Instr}
    (hv : s.params.valid = true) (hp : s.port = c :: rest) (hd : decode c.word = some i)
    (h : Effect i (s.present c rest) t) : step s = .next t := by
  simp only [step, hv, if_true, fetch, hp, hd]
  exact exec_of_effect h

end Sys2Proof.Machine
end

