-- ==== Sys2Proof/Tests/Slice0.lean ====
section
/-! SUPPORT. Tests: the decoder on words of the spec, one step of each command on a small state, and for every statement with
hypotheses a concrete state that meets them. Expected values come from 95_test_vectors.md (its section is named) or 30_encoding.md
R50 to R61, never from the model. -/

-- One test after another: in the one-text build, many tests at once would each hold a thread.
set_option Elab.async false

namespace Sys2Proof.Tests

open Sys2Proof Sys2Proof.Machine

/-! ### Small states -/

/-- An initialised block with the example parameters. -/
def up : State := State.reset.create .master

/-- The window of `SEND 1, 6, 0x2000, 4`, with listener 0x00A1, `idle_ticks` = n and the bytes `bs` held. -/
def window (n : Half) (bs : List Byte) : State :=
  { acceptBytes bs (up.openWindow ⟨1, 6, 0x2000, 4⟩) with idleTicks := n, slots := [0x00A1, 0, 0, 0], active := 1 }

/-- An initialised block with these slots and this boundary. -/
def table (slots : List Handler) (active : BitVec 8) : State := { up with slots := slots, active := active }

/-- The state with the host about to present one word. -/
def presenting (w : Word) (g : Bool) (s : State) : State := { s with port := [⟨w, g⟩] }

/-- The next state of an outcome, if it is one. -/
def nextOf : Host.Outcome State Fault Refusal → Option State
  | .next t => some t
  | .fault _ => none
  | .refused _ => none

/-- One element and the outputs of the next state. -/
def look {α : Type} (f : State → α) (o : Host.Outcome State Fault Refusal) : Option (α × Option Output) :=
  (nextOf o).map fun t => (f t, t.out)

/-- The invariant as a check that computes. -/
def invCheck (s : State) : Bool :=
  s.params.valid && s.rxBuf.length == s.params.rxCap.toNat && s.slots.length == s.params.maxListeners.toNat &&
  (!s.live || (!(s.mode == .wait) || s.reqValid) && decide (s.rxLen ≤ s.params.rxCap) &&
    decide (s.idleTicks ≤ s.params.timeoutTicks) && decide (s.active ≤ s.params.maxListeners) &&
    (s.slots.drop s.active.toNat).all (· == 0))

theorem inv_of_check {s : State} (h : invCheck s = true) : s.Inv := by
  simp only [invCheck, Bool.and_eq_true, Bool.or_eq_true, Bool.not_eq_true', beq_iff_eq, beq_eq_false_iff_ne,
    decide_eq_true_eq, List.all_eq_true] at h
  obtain ⟨⟨⟨h1, h2⟩, h3⟩, h4⟩ := h
  refine ⟨⟨h1, h2, h3⟩, fun hl => ?_⟩
  rcases h4 with h4 | ⟨⟨⟨⟨h5, h6⟩, h7⟩, h8⟩, h9⟩
  · rw [hl] at h4; cases h4
  · exact ⟨fun hm => h5.resolve_left fun hn => hn hm, h6, h7, h8, h9⟩

/-- A next state, described by what it shows. -/
theorem next_of_look {α : Type} {f : State → α} {o : Host.Outcome State Fault Refusal} {a : α}
    (h : (nextOf o).map f = some a) : ∃ t, o = .next t ∧ f t = a := by
  cases o with
  | next t => exact ⟨t, rfl, Option.some.inj h⟩
  | fault r => cases h
  | refused r => cases h

/-! ### Well-formedness, decoding and encoding -/

theorem test_accept_of_seven_bytes_is_ill_formed : (Instr.accept [1, 2, 3, 4, 5, 6, 7]).wellFormed = false := by decide

/-- Format I, bit by bit (R50): opcode 0x01, 55 zeros, role 1. -/
theorem test_decode_init_slave :
    decode 0b0000000100000000000000000000000000000000000000000000000000000001 = some (.init .slave) := by decide

/-- Format N (R50): opcode and 56 zeros. -/
theorem test_decode_no_operand :
    decode 0b0000001000000000000000000000000000000000000000000000000000000000 = some .deinit ∧
    decode 0b0010001000000000000000000000000000000000000000000000000000000000 = some .resetParser ∧
    decode 0b0011000000000000000000000000000000000000000000000000000000000000 = some .tick := by decide

/-- Format S, the word of E2, bit by bit: 0x10, addr 1, func 6, reg 0x2000, data 4, 8 zeros. -/
theorem test_decode_send :
    decode 0b0001000000000001000001100010000000000000000000000000010000000000 = some (.send 1 6 0x2000 4) := by decide

/-- Format B (R61): 0x20, 48 zeros, the byte 0x83. -/
theorem test_decode_accept_byte :
    decode 0b0010000000000000000000000000000000000000000000000000000010000011 = some (.acceptByte 0x83) := by decide

/-- Format A, line 10 of program P4: 0x21, 5 zeros, n = 3, the bytes 0x14, 0xCB, 0xFF, 24 zeros. -/
theorem test_decode_accept :
    decode 0b0010000100000011000101001100101111111111000000000000000000000000 =
      some (.accept [0x14, 0xCB, 0xFF]) := by decide

/-- Format L (R61): opcode, 40 zeros, h = 0x00A1. -/
theorem test_decode_listeners :
    decode 0b0100000000000000000000000000000000000000000000000000000010100001 = some (.addListener 0x00A1) ∧
    decode 0b0100000100000000000000000000000000000000000000000000000010100001 = some (.removeListener 0x00A1) := by
  decide

/-- Every illegal word of section 2.8. -/
theorem test_illegal_words_decode_to_nothing :
    ([0x0000000000000000, 0x0300000000000000, 0xFF00000000000000, 0x0100000000000002, 0x0200000000000001,
      0x3000000000000001, 0x3080000000000000, 0x2200000000000001, 0x1001062000000401, 0x2000000000000101,
      0x2107000000000000, 0x2101010500000000, 0x2108000000000000, 0x4000000000010001] : List Word).map decode =
      List.replicate 14 none := by decide

/-- The words of lines 4, 7 and 10 of programs P1, P4. -/
theorem test_encode_accept :
    [Instr.accept [0x01, 0x06, 0x20, 0x00, 0x00, 0x04], .accept [0x11, 0x03, 0x04, 0x00, 0x0A, 0x00],
      .accept [0x14, 0xCB, 0xFF]].map encode = [0x2106010620000004, 0x2106110304000A00, 0x210314CBFF000000] := by decide

theorem test_table_word_is_decoded :
    decodeTableWord 64 0x4100000000000005 = some (.removeListener 5) ∧ decodeTableWord 64 0x0300000000000000 = none := by
  decide

/-- Text of R59, R60 and its words: E2's SEND and a pseudo-command of two TICKs. -/
theorem test_assembler_text :
    assembleLine ['S', 'E', 'N', 'D', ' ', '1', ',', ' ', '6', ',', ' ', '0', 'x', '2', '0', '0', '0', ',', ' ', '4'] =
      some [0x1001062000000400] ∧
    assembleLine ['A', 'D', 'V', 'A', 'N', 'C', 'E', ' ', '2'] = some [0x3000000000000000, 0x3000000000000000] ∧
    assembleLine ['A', 'C', 'C', 'E', 'P', 'T', '_', 'B', 'Y', 'T', 'E', ' ', '2', '5', '6'] = none := by decide +kernel

/-! ### The checker and the decoder -/

/-- Section 2.1: all-zero and all-one requests. -/
theorem test_crc_of_constant_requests :
    crc16 (List.replicate 6 0x00) = 0x1B00 ∧ crc16 (List.replicate 6 0xFF) = 0x9401 := by decide +kernel

/-- E5: one corrupted CRC byte, and the two swapped. -/
theorem test_corrupted_crc_fails :
    crcOk [0x01, 0x06, 0x20, 0x00, 0x00, 0x04, 0x83, 0xC9] = true ∧
    crcOk [0x01, 0x06, 0x20, 0x00, 0x00, 0x04, 0x83, 0xC8] = false ∧
    crcOk [0x01, 0x06, 0x20, 0x00, 0x00, 0x04, 0xC9, 0x83] = false := by decide +kernel

/-- Section 2.4: the smallest accepted frame, and the exception marker in a short frame. -/
theorem test_decode_response_smallest_frames :
    (deliver 1 (decodeResponse ⟨1, 6, 0x2000, 4⟩ [0x01, 0x03, 0x2A, 0xA1, 0x2F])) = ⟨0x0001010620000000, 1, [0x2A]⟩ ∧
    (deliver 1 (decodeResponse ⟨1, 6, 0x2000, 4⟩ [0x01, 0x86, 0x02, 0xC3])) = ⟨0x0001010620000048, 0, []⟩ := by
  decide +kernel

/-! ### One step of each command -/

/-- Section 2.7: the word of INIT SLAVE, stored where the next step takes its command. -/
theorem test_init_from_reset :
    look (fun t => (t.live, t.role, t.slots)) (step (State.reset.withFetchWord 64 0x0100000000000001)) =
      some ((true, .slave, [0, 0, 0, 0]), some ⟨.ok, [], []⟩) := by decide +kernel

/-- Section 2.7: INIT of a live block. -/
theorem test_init_twice :
    look (fun t => t.role) (exec (.init .slave) up) = some (.master, some ⟨.alreadyInitialised, [], []⟩) := by
  decide +kernel

/-- Section 2.7: DEINIT in WAIT with one listener makes no delivery. -/
theorem test_deinit_in_wait :
    look (fun t => (t.live, t.holdsValue .req)) (exec .deinit (window 3 [1])) =
      some ((false, false), some ⟨.ok, [], []⟩) := by decide +kernel

/-- E2. -/
theorem test_send :
    look (fun t => (t.mode, t.req)) (step (presenting 0x1001062000000400 true up)) =
      some ((.wait, ⟨1, 6, 0x2000, 4⟩),
        some ⟨.ok, [.claim, .write 8 [0x01, 0x06, 0x20, 0x00, 0x00, 0x04, 0x83, 0xC9], .release], []⟩) := by decide +kernel

/-- E3: the busy case of section 2.2. -/
theorem test_send_busy :
    look (fun t => (t.rxLen, t.idleTicks, t.req.addr)) (step (presenting 0x1002030000000100 true (window 1 [7]))) =
      some ((1, 1, 1), some ⟨.engineBusy, [.claim, .release], []⟩) := by decide +kernel

/-- Section 2.3, RX_CAP = 4. -/
def small : State :=
  { up.openWindow ⟨1, 6, 0x2000, 4⟩ with
    params := { Params.exampleValues with rxCap := 4 }, rxBuf := [0, 0, 0, 0], idleTicks := 2 }

theorem test_accept_beyond_capacity :
    look (fun t => (t.rxBytes, t.rxLen, t.idleTicks)) (exec (.accept [1, 2, 3, 4, 5, 6]) small) =
      some ((some [1, 2, 3, 4], 4, 0), some ⟨.ok, [], []⟩) := by decide +kernel

theorem test_accept_of_no_byte :
    look (fun t => (t.rxLen, t.idleTicks)) (exec (.accept []) small) = some ((0, 2), some ⟨.ok, [], []⟩) := by
  decide +kernel

theorem test_accept_byte_dropped :
    look (fun t => (t.rxBytes, t.idleTicks)) (exec (.acceptByte 9) { small with rxBuf := [1, 2, 3, 4], rxLen := 4 }) =
      some ((some [1, 2, 3, 4], 0), some ⟨.ok, [], []⟩) := by decide +kernel

/-- Section 2.3: in IDLE, APPEND and DROP. -/
theorem test_accept_byte_in_idle :
    look (fun t => t.rxLen) (exec (.acceptByte 7) up) = some (1, some ⟨.ok, [], []⟩) ∧
    look (fun t => t.rxLen) (exec (.acceptByte 7) { up with params := { up.params with acceptInIdle := .drop } }) =
      some (0, some ⟨.ok, [], []⟩) := by decide +kernel

/-- P4, line 6. -/
theorem test_reset_parser :
    look (fun t => (t.rxLen, t.idleTicks, t.mode)) (exec .resetParser (window 1 [0xFF, 0x00])) =
      some ((0, 0, .wait), some ⟨.ok, [], []⟩) := by decide +kernel

/-- P3, line 13: an exception reply from the wrong peer, at the threshold. -/
theorem test_tick_delivers :
    look (fun t => (t.mode, t.rxLen, t.idleTicks)) (exec .tick (window 3 [0x02, 0x86, 0x02, 0x33, 0xA1])) =
      some ((.idle, 0, 0), some ⟨.ok, [], [⟨0x00A10106200002A0, 0, []⟩]⟩) := by decide +kernel

/-- Section 2.5: `idle_ticks` = 2 under ELSE_BRANCH and under SAME_TICK. -/
theorem test_tick_finalize_parameter :
    look (fun t => (t.mode, t.idleTicks)) (exec .tick (window 2 [])) = some ((.wait, 3), some ⟨.ok, [], []⟩) ∧
    look (fun t => (t.mode, t.idleTicks))
        (exec .tick { window 2 [] with params := { Params.exampleValues with tickFinalize := .sameTick } }) =
      some ((.idle, 0), some ⟨.ok, [], [⟨0x00A1010620000048, 0, []⟩]⟩) := by decide +kernel

/-- Section 2.6: a duplicate fills the hole. -/
theorem test_add_listener_fills_the_hole :
    look (fun t => (t.slots, t.active)) (exec (.addListener 1) (table [1, 0, 0, 0] 2)) =
      some (([1, 1, 0, 0], 2), some ⟨.ok, [], []⟩) := by decide +kernel

/-- E8. -/
theorem test_add_listener_full :
    look (fun t => (t.slots, t.active)) (exec (.addListener 5) (table [1, 2, 3, 4] 4)) =
      some (([1, 2, 3, 4], 4), some ⟨.listenerTableFull, [], []⟩) := by decide +kernel

/-- Section 2.6: `active` drops by one only. -/
theorem test_remove_last_listener :
    look (fun t => (t.slots, t.active)) (exec (.removeListener 6) (table [1, 0, 6, 0] 3)) =
      some (([1, 0, 0, 0], 2), some ⟨.ok, [], []⟩) := by decide +kernel

/-- Section 2.6: the first match only. -/
theorem test_remove_first_match :
    look (fun t => (t.slots, t.active)) (exec (.removeListener 1) (table [1, 1, 0, 0] 2)) =
      some (([0, 1, 0, 0], 2), some ⟨.ok, [], []⟩) := by decide +kernel

/-- Section 2.8: an illegal word while `live` = 0. -/
theorem test_illegal_word_is_reported :
    look (fun t => t.live) (step (presenting 0x0100000000000002 false State.reset)) =
      some (false, some ⟨.illegalCommand, [], []⟩) := by decide +kernel

/-! ### Witnesses: states and operands that meet the hypotheses of each statement -/

theorem witness_DecodeOfEncode : (Instr.accept [1, 2, 3, 4, 5, 6]).wellFormed = true := by decide

theorem witness_EncodeOfDecode : decode 0x2106010203040506 = some (.accept [1, 2, 3, 4, 5, 6]) := by decide

/-- One word for each of (a) to (d), and a step. -/
theorem witness_IllegalWords :
    (∀ row ∈ opcodeTable, opcodeField 0x0300000000000000 ≠ opcodeField row.pattern) ∧
    (∃ row ∈ opcodeTable, opcodeField 0x0100000000000002 = opcodeField row.pattern ∧
      (0x0100000000000002 : Word) &&& row.mask ≠ row.pattern) ∧
    (opcodeField 0x2107000000000000 = 0x21 ∧ 6 < ((0x2107000000000000 : Word).extractLsb' 48 3).toNat) ∧
    (opcodeField 0x2105000000000001 = 0x21 ∧ (∃ k, k < 6 ∧ ((0x2105000000000001 : Word).extractLsb' 48 3).toNat ≤ k ∧
      (0x2105000000000001 : Word).extractLsb' (40 - 8 * k) 8 ≠ 0)) ∧
    (presenting 0x2105000000000001 true up).params.valid = true ∧
    (presenting 0x2105000000000001 true up).port = [⟨0x2105000000000001, true⟩] ∧
    decode 0x2105000000000001 = none := by
  exact ⟨by decide, by decide, by decide, ⟨by decide, 5, by decide, by decide, by decide⟩, rfl, rfl, by decide⟩

theorem witness_OpcodeRows :
    (⟨"TICK", 0x3000000000000000, 0xFFFFFFFFFFFFFFFF⟩ : OpcodeRow) ∈ opcodeTable ∧
    (0x3000000000000000 : Word) &&& 0xFFFFFFFFFFFFFFFF = 0x3000000000000000 := by decide

theorem witness_StepRuns :
    (presenting 0x1001062000000400 true up).params.valid = true ∧
    (presenting 0x1001062000000400 true up).port = [⟨0x1001062000000400, true⟩] ∧
    decode 0x1001062000000400 = some (.send 1 6 0x2000 4) := ⟨rfl, rfl, by decide⟩

theorem witness_StepWithout : up.params.valid = true ∧ up.port = [] := ⟨rfl, rfl⟩

/-- A configuration just below the limit, and one at it. -/
theorem witness_SendBufferSize :
    ({ up with params := { up.params with txBufCap := 7 } } : State).params.txBufCap < 8 ∧ 8 ≤ up.params.txBufCap := by
  decide

theorem witness_CommandsChangeNoInput :
    (∃ t, exec (.send 1 6 0x2000 4) { up with claimAnswer := true } = .next t ∧ t.mode = .wait) ∧
    (∃ t, step (presenting 0x3000000000000000 true (window 2 [])) = .next t ∧ t.idleTicks = 3) :=
  ⟨next_of_look (by decide +kernel), next_of_look (by decide +kernel)⟩

theorem witness_PowerOn :
    (∃ t, exec .tick (State.powerOn Params.exampleValues) = .next t ∧ t.live = false) ∧
    ∃ t, exec (.init .slave) (State.powerOn Params.exampleValues) = .next t ∧ t.live = true :=
  ⟨next_of_look (by decide +kernel), next_of_look (by decide +kernel)⟩

theorem witness_NotInitialised : State.reset.live = false ∧ ∀ r, Instr.addListener 0 ≠ .init r :=
  ⟨rfl, fun _ h => Instr.noConfusion h⟩

/-- The smallest configuration. -/
theorem witness_PowerOnMeets : (⟨0, 1, 0, 8, .sameTick, .drop⟩ : Params).valid = true := by decide

/-- WAIT with a full receive buffer (RX_CAP = 4) and the counter at the threshold, and its finalize. -/
theorem witness_StepKeeps :
    (presenting 0x3000000000000000 true { small with rxLen := 4, idleTicks := 3 }).Inv ∧
    ∃ t, step (presenting 0x3000000000000000 true { small with rxLen := 4, idleTicks := 3 }) = .next t ∧
      t.mode = .idle :=
  ⟨inv_of_check (by decide +kernel), next_of_look (by decide +kernel)⟩

theorem witness_InvariantStates : (window 3 [1, 6]).Inv ∧ (table [1, 0, 6, 0] 3).Inv ∧ State.reset.Inv :=
  ⟨inv_of_check (by decide +kernel), inv_of_check (by decide +kernel), inv_of_check (by decide +kernel)⟩

/-- Two different states with the same values: buffer bytes beyond `rx_len`, and a block that is not live. -/
theorem witness_NoElement :
    (small.Inv ∧ ({ small with rxBuf := [9, 9, 9, 9] } : State).Inv ∧
      small.SameValues { small with rxBuf := [9, 9, 9, 9] } ∧ small ≠ { small with rxBuf := [9, 9, 9, 9] }) ∧
    State.reset.Inv ∧ ({ State.reset with role := .slave, active := 7 } : State).Inv ∧
    State.reset.SameValues { State.reset with role := .slave, active := 7 } := by
  refine ⟨⟨inv_of_check (by decide +kernel), inv_of_check (by decide +kernel), ⟨rfl, rfl, rfl, rfl, rfl, fun _ => ?_⟩,
    by decide +kernel⟩, inv_of_check (by decide +kernel), inv_of_check (by decide +kernel),
    ⟨rfl, rfl, rfl, rfl, rfl, fun h => Bool.noConfusion h⟩⟩
  exact ⟨rfl, rfl, rfl, rfl, rfl, rfl, rfl, fun _ => rfl, rfl⟩

/-- WAIT without a stored request; and with one, `rx_len` one above the bytes there are. -/
theorem witness_ReadingNoValue :
    (({ small with idleTicks := 3, reqValid := false } : State).live = true ∧
      ({ small with idleTicks := 3, reqValid := false } : State).mode = .wait ∧
      small.params.timeoutTicks ≤ ({ small with idleTicks := 3, reqValid := false } : State).idleTicks) ∧
    ({ small with idleTicks := 3, rxLen := 5 } : State).reqValid = true ∧
    ({ small with idleTicks := 3, rxLen := 5 } : State).rxBuf.length <
      ({ small with idleTicks := 3, rxLen := 5 } : State).rxLen.toNat :=
  ⟨⟨rfl, rfl, by decide⟩, rfl, by decide⟩

/-- A denied and a busy SEND, an error with no interaction, and an illegal word. -/
theorem witness_ErrorsArePrecise :
    (∃ t, exec (.send 1 6 0x2000 4) up = .next t ∧ (t.result, t.interactions) = (some .transmitDenied, [.claim])) ∧
    (∃ t, exec (.send 1 6 0x2000 4) { window 1 [] with claimAnswer := true } = .next t ∧
      (t.result, t.interactions) = (some .engineBusy, [.claim, .release])) ∧
    (∃ t, exec (.addListener 0) up = .next t ∧ (t.result, t.interactions) = (some .invalidHandler, [])) ∧
    (presenting 0x0300000000000000 true up).port = [⟨0x0300000000000000, true⟩] ∧
    ∃ t, step (presenting 0x0300000000000000 true up) = .next t ∧ t.result = some .illegalCommand :=
  ⟨next_of_look (f := fun t => (t.result, t.interactions)) (by decide +kernel),
    next_of_look (f := fun t => (t.result, t.interactions)) (by decide +kernel),
    next_of_look (f := fun t => (t.result, t.interactions)) (by decide +kernel), rfl,
    next_of_look (by decide +kernel)⟩

/-- Every code of the legal commands occurs. -/
theorem witness_ResultCodes :
    [exec (.init .master) State.reset, exec (.init .master) up, exec .tick State.reset, exec (.send 1 6 0 0) up,
      exec (.send 1 6 0 0) { window 0 [] with claimAnswer := true }, exec (.addListener 0) up,
      exec (.addListener 5) (table [1, 2, 3, 4] 4), exec (.removeListener 5) up].map
        (fun o => (nextOf o).map State.result) =
      [some (some .ok), some (some .alreadyInitialised), some (some .notInitialised), some (some .transmitDenied),
       some (some .engineBusy), some (some .invalidHandler), some (some .listenerTableFull),
       some (some .listenerNotFound)] := by decide +kernel

/-- A finalize, a DEINIT, and a command that leaves the window open. -/
theorem witness_OnlyAFinalize :
    (window 3 [1]).Inv ∧ (window 2 [1]).Inv ∧ (window 3 [1]).live = true ∧ (window 3 [1]).mode = .wait ∧
    (∃ t, exec .tick (window 3 [1]) = .next t ∧ t.mode = .idle) ∧
    (∃ t, exec .deinit (window 3 [1]) = .next t ∧ t.live = false) ∧
    (∃ t, exec .tick (window 2 [1]) = .next t ∧ t.mode = .wait) :=
  ⟨inv_of_check (by decide +kernel), inv_of_check (by decide +kernel), by decide +kernel, by decide +kernel,
    next_of_look (by decide +kernel), next_of_look (by decide +kernel), next_of_look (by decide +kernel)⟩

/-- Also for `TransmissionNeedsIdleAndLeavesWait`. -/
theorem witness_OnlyASuccessfulSend :
    up.live = true ∧ up.mode = .idle ∧ ∃ t, exec (.send 1 6 0x2000 4) { up with claimAnswer := true } = .next t ∧
      (t.live, t.mode, t.transmits) = (true, .wait, true) :=
  ⟨rfl, rfl, next_of_look (f := fun t => (t.live, t.mode, t.transmits)) (by decide +kernel)⟩

theorem witness_RegistryAndEngine :
    (∃ t, exec (.addListener 7) (window 3 [1]) = .next t ∧ t.slots = [0x00A1, 7, 0, 0]) ∧
    (∃ t, exec (.removeListener 0x00A1) (window 3 [1]) = .next t ∧ t.slots = [0, 0, 0, 0]) ∧
    ((table [1, 0, 0, 0] 1).live = ({ table [1, 0, 0, 0] 1 with rxLen := 3 } : State).live ∧
      (table [1, 0, 0, 0] 1).slots = ({ table [1, 0, 0, 0] 1 with rxLen := 3 } : State).slots) ∧
    (∃ t, exec .tick (window 3 [1]) = .next t ∧ t.mode = .idle) :=
  ⟨next_of_look (by decide +kernel), next_of_look (by decide +kernel), ⟨rfl, rfl⟩, next_of_look (by decide +kernel)⟩

/-- A block that steps, one that faults, one without a configuration, each beside another. -/
theorem witness_Blocks :
    (∃ t, step (presenting 0x3000000000000000 true up) = .next t ∧ t.result = some .ok) ∧
    step (presenting 0x3000000000000000 true { small with idleTicks := 3, reqValid := false }) = .fault (.noValue .req) ∧
    step { up with params := { up.params with txBufCap := 7 } } = .refused .noSuchConfiguration ∧
    [State.reset, presenting 0x3000000000000000 true up][1]? = some (presenting 0x3000000000000000 true up) :=
  ⟨next_of_look (by decide +kernel), rfl, rfl, rfl⟩

/-- The two values of `live`: for `RoleIsWrittenByInitAndNeverRead`, `InitCreatesTheInstance`, `DeinitDestroysTheInstance`,
`DeinitThenInitForgetsTheInstance`, `AcceptEqualsItsBytesOneByOne` and `ResetParserKeepsTheWindow`. -/
theorem witness_Live : State.reset.live = false ∧ up.live = true ∧ small.live = true ∧ small.mode = .wait :=
  ⟨rfl, rfl, rfl, rfl⟩

/-- The four clauses of SEND. -/
theorem witness_SendOutcomes :
    State.reset.live = false ∧ (up.live = true ∧ up.claimAnswer = false) ∧
    (({ small with claimAnswer := true } : State).live = true ∧
      ({ small with claimAnswer := true } : State).mode = .wait) ∧
    (({ up with claimAnswer := true } : State).live = true ∧ ({ up with claimAnswer := true } : State).mode = .idle) :=
  ⟨rfl, ⟨rfl, rfl⟩, ⟨rfl, rfl⟩, rfl, rfl⟩

theorem witness_ClaimsArePaired :
    (∃ t, exec (.send 1 6 0 0) up = .next t ∧ t.interactions = [.claim]) ∧
    (∃ t, exec (.send 1 6 0 0) { small with claimAnswer := true } = .next t ∧ t.interactions = [.claim, .release]) ∧
    (∃ t, exec (.send 1 6 0 0) { up with claimAnswer := true } = .next t ∧ t.transmits = true) ∧
    (∃ t, exec .tick up = .next t ∧ t.interactions = []) :=
  ⟨next_of_look (by decide +kernel), next_of_look (by decide +kernel), next_of_look (by decide +kernel),
    next_of_look (by decide +kernel)⟩

/-- E5: a good frame, and another value for its last byte and for its first. -/
theorem witness_OneByteCorruption :
    crcOk [0x01, 0x06, 0x20, 0x00, 0x00, 0x04, 0x83, 0xC9] = true ∧
    ([0x01, 0x06, 0x20, 0x00, 0x00, 0x04, 0x83, 0xC9] : List Byte)[7]? ≠ some 0xC8 ∧
    ([0x01, 0x06, 0x20, 0x00, 0x00, 0x04, 0x83, 0xC9] : List Byte)[0]? ≠ some 0x02 := by decide +kernel

/-- The last free place, a full buffer, and IDLE under APPEND and under DROP. -/
theorem witness_AcceptByte :
    (({ small with rxLen := 3 } : State).Inv ∧ small.mode = .wait ∧ (3 : Half).toNat < small.params.rxCap.toNat) ∧
    (({ small with rxLen := 4 } : State).Inv ∧ (4 : Half).toNat = small.params.rxCap.toNat) ∧
    (up.Inv ∧ up.mode = .idle ∧ up.params.acceptInIdle = .append) ∧
    (({ up with params := { up.params with acceptInIdle := .drop } } : State).live = true ∧
      ({ up with params := { up.params with acceptInIdle := .drop } } : State).mode = .idle) :=
  ⟨⟨inv_of_check (by decide +kernel), rfl, by decide⟩, ⟨inv_of_check (by decide +kernel), by decide⟩,
    ⟨inv_of_check (by decide +kernel), rfl, rfl⟩, rfl, rfl⟩

theorem witness_BufferHolds :
    ({ small with rxLen := 3 } : State).Inv ∧ ({ small with rxLen := 3 } : State).live = true ∧
    ({ small with rxLen := 3 } : State).mode = .wait ∧ ({ small with rxLen := 3 } : State).rxBytes = some [0, 0, 0] ∧
    acceptChunks [1, 2, 3, 4, 5, 6, 7] = [.accept [1, 2, 3, 4, 5, 6], .accept [7]] :=
  ⟨inv_of_check (by decide +kernel), rfl, rfl, by decide +kernel, rfl⟩

/-- The longest short frame and the shortest longer one (section 2.4). -/
theorem witness_GuardFailures :
    ([0x01, 0x86, 0x02, 0xC3] : List Byte).length ≤ 4 ∧ 5 ≤ ([0x01, 0x03, 0x2A, 0xA1, 0x2E] : List Byte).length ∧
    crcOk [0x01, 0x03, 0x2A, 0xA1, 0x2E] = false := by decide +kernel

/-- The shortest good frame, an exception frame and one from the wrong peer (section 2.4). -/
theorem witness_GoodFrames :
    crcOk ([0x01, 0x03, 0x2A] ++ [0xA1, 0x2F]) = true ∧ crcOk ([0x01, 0x86, 0x02] ++ [0xC3, 0xA1]) = true ∧
    crcOk ([0x02, 0x06, 0x20, 0x00, 0x00, 0x04] ++ [0x83, 0xFA]) = true := by decide +kernel

theorem witness_DeliveredPayloads :
    (window 3 [0x01, 0x03, 0x2A, 0xA1, 0x2F]).Inv ∧
    ∃ t, exec .tick (window 3 [0x01, 0x03, 0x2A, 0xA1, 0x2F]) = .next t ∧
      t.deliveries = [⟨0x00A1010620000000, 1, [0x2A]⟩] :=
  ⟨inv_of_check (by decide +kernel), next_of_look (by decide +kernel)⟩

/-- Both kinds of function byte of the echo. -/
theorem witness_Echo : (⟨1, 6, 0x2000, 4⟩ : Request).func ≠ 0x86 ∧ (⟨1, 0x86, 0x0200, 0⟩ : Request).func = 0x86 := by
  decide

/-- The clauses of TICK, at the tick before the threshold and at it, under both values of TICK_FINALIZE. -/
theorem witness_TickCountsOrFinalizes :
    State.reset.Inv ∧ up.Inv ∧ (window 2 []).Inv ∧ (window 3 []).Inv ∧
    ({ small with params := { small.params with tickFinalize := .sameTick }, idleTicks := 2 } : State).Inv ∧
    ¬ (window 2 []).Finalizes ∧ (window 3 []).Finalizes ∧
    ({ small with params := { small.params with tickFinalize := .sameTick }, idleTicks := 2 } : State).Finalizes ∧
    ¬ ({ small with params := { small.params with tickFinalize := .sameTick }, idleTicks := 1 } : State).Finalizes :=
  ⟨inv_of_check (by decide +kernel), inv_of_check (by decide +kernel), inv_of_check (by decide +kernel),
    inv_of_check (by decide +kernel), inv_of_check (by decide +kernel), by decide +kernel, by decide +kernel,
    by decide +kernel, by decide +kernel⟩

theorem witness_Dispatch :
    (table [1, 0, 6, 0] 3).Inv ∧ (table [1, 0, 6, 0] 3).live = true ∧
    ∃ t, exec .tick (window 3 [1]) = .next t ∧ t.deliveries.length = 1 :=
  ⟨inv_of_check (by decide +kernel), rfl, next_of_look (by decide +kernel)⟩

/-- A window of four TICKs (T = 3, ELSE_BRANCH), and one of one TICK (T = 0, SAME_TICK; section 2.5). -/
theorem witness_WindowCloses :
    ({ small with idleTicks := 0, port := List.replicate 4 ⟨0x3000000000000000, false⟩ } : State).Inv ∧
    small.mode = .wait ∧ windowTicks small.params = 4 ∧ windowTicks ⟨0, 1, 0, 8, .sameTick, .drop⟩ = 1 ∧
    List.replicate 4 ⟨0x3000000000000000, false⟩ =
      presented false (List.replicate (windowTicks small.params) .tick) ++ [] :=
  ⟨inv_of_check (by decide +kernel), rfl, by decide +kernel, by decide +kernel, by decide +kernel⟩

theorem witness_FinalizedWindow :
    ({ small with idleTicks := 3, claimAnswer := true } : State).Inv ∧
    ∃ t, exec .tick { small with idleTicks := 3, claimAnswer := true } = .next t ∧ t.mode = .idle :=
  ⟨inv_of_check (by decide +kernel), next_of_look (by decide +kernel)⟩

/-- Program P1's cycle: SEND, its reply in two ACCEPTs, four TICKs. -/
theorem witness_RequestIsAnswered :
    up.Inv ∧ up.live = true ∧ up.mode = .idle ∧
    presented true (.send 1 6 0x2000 4 :: acceptChunks [0x01, 0x06, 0x20, 0x00, 0x00, 0x04, 0x83, 0xC9] ++
        List.replicate (windowTicks Params.exampleValues) .tick) =
      [⟨0x1001062000000400, true⟩, ⟨0x2106010620000004, true⟩, ⟨0x210283C900000000, true⟩, ⟨0x3000000000000000, true⟩,
       ⟨0x3000000000000000, true⟩, ⟨0x3000000000000000, true⟩, ⟨0x3000000000000000, true⟩] :=
  ⟨inv_of_check (by decide +kernel), rfl, rfl, by decide +kernel⟩

theorem witness_AcceptInIdle : Params.exampleValues.valid = true := by decide

/-- The clauses of ADD_LISTENER: not live, h = 0 on a live block, a full table, only the last slot free. -/
theorem witness_AddListener :
    (State.reset.Inv ∧ State.reset.live = false) ∧ (up.Inv ∧ up.live = true) ∧
    ((table [1, 2, 3, 4] 4).Inv ∧ (0 : Handler) ∉ [1, 2, 3, 4]) ∧
    (table [1, 2, 3, 0] 3).Inv ∧ (table [1, 2, 3, 0] 3).live = true ∧ (0 : Handler) ∈ [1, 2, 3, 0] :=
  ⟨⟨inv_of_check (by decide +kernel), rfl⟩, ⟨inv_of_check (by decide +kernel), rfl⟩,
    ⟨inv_of_check (by decide +kernel), by decide +kernel⟩, inv_of_check (by decide +kernel), rfl, by decide +kernel⟩

/-- The clauses of REMOVE_LISTENER: no match below `active`, a match in the last place in range, a match below it. -/
theorem witness_RemoveListener :
    (table [1, 0, 6, 0] 3).Inv ∧ (table [1, 0, 6, 0] 3).live = true ∧ (table [1, 0, 6, 0] 3).active.toNat = 3 ∧
    (∀ j, j < 3 → ([1, 0, 6, 0] : List Handler)[j]? ≠ some 5) ∧
    (([1, 0, 6, 0] : List Handler)[2]? = some 6 ∧ ∀ j, j < 2 → ([1, 0, 6, 0] : List Handler)[j]? ≠ some 6) ∧
    ([1, 0, 6, 0] : List Handler)[0]? = some 1 :=
  ⟨inv_of_check (by decide +kernel), rfl, by decide, by decide +kernel, by decide +kernel, rfl⟩

theorem witness_FreedSlot :
    (table [1, 2, 3, 4] 4).Inv ∧ (table [1, 2, 3, 4] 4).live = true ∧ (0 : Handler) ∉ [1, 2, 3, 4] ∧
    (2 : Handler) ∈ [1, 2, 3, 4] ∧ (5 : Handler) ≠ 0 :=
  ⟨inv_of_check (by decide +kernel), rfl, by decide +kernel, by decide +kernel, by decide⟩

/-- Each of the three receive commands, changing the buffer or its length. -/
theorem witness_ReceiveFrame :
    (∃ t, exec (.acceptByte 9) small = .next t ∧ t.rxBuf = [9, 0, 0, 0]) ∧
    (∃ t, exec (.accept [9, 8]) small = .next t ∧ t.rxBuf = [9, 8, 0, 0]) ∧
    (∃ t, exec .resetParser { small with rxLen := 4 } = .next t ∧ t.rxLen = 0) :=
  ⟨next_of_look (by decide +kernel), next_of_look (by decide +kernel), next_of_look (by decide +kernel)⟩

theorem witness_SendAndTickFrame :
    (∃ t, exec (.send 9 3 0 1) { up with claimAnswer := true } = .next t ∧ t.req = ⟨9, 3, 0, 1⟩) ∧
    (∃ t, exec .tick small = .next t ∧ t.idleTicks = 3) :=
  ⟨next_of_look (by decide +kernel), next_of_look (by decide +kernel)⟩

/-- A slot filled and a slot cleared, and the clauses in which no slot changes: not live, h = 0, a full table, no match. -/
theorem witness_RegistryFrame :
    ((∃ t, exec (.addListener 7) (table [1, 0, 6, 0] 3) = .next t ∧ t.slots = [1, 7, 6, 0]) ∧
      (table [1, 0, 6, 0] 3).firstEmpty = some 1) ∧
    ((∃ t, exec (.removeListener 6) (table [1, 0, 6, 0] 3) = .next t ∧ t.slots = [1, 0, 0, 0]) ∧
      (table [1, 0, 6, 0] 3).firstMatch 6 = some 2) ∧
    (∃ t, exec (.addListener 7) State.reset = .next t ∧ t.live = false) ∧
    (∃ t, exec (.addListener 0) (table [1, 0, 6, 0] 3) = .next t ∧ t.active = 3) ∧
    ((∃ t, exec (.addListener 5) (table [1, 2, 3, 4] 4) = .next t ∧ t.active = 4) ∧
      (table [1, 2, 3, 4] 4).firstEmpty = none) ∧
    ((∃ t, exec (.removeListener 5) (table [1, 2, 3, 4] 4) = .next t ∧ t.active = 4) ∧
      (table [1, 2, 3, 4] 4).firstMatch 5 = none) :=
  ⟨⟨next_of_look (by decide +kernel), by decide +kernel⟩, ⟨next_of_look (by decide +kernel), by decide +kernel⟩,
    next_of_look (by decide +kernel), next_of_look (by decide +kernel),
    ⟨next_of_look (by decide +kernel), by decide +kernel⟩, ⟨next_of_look (by decide +kernel), by decide +kernel⟩⟩

/-- Operands at the ends of their ranges; 6 and 7 bytes of ACCEPT_BUF (R60). -/
theorem witness_Assembler :
    assemble (.send 255 0 65535 0) = some [.send 255 0 65535 0] ∧ assemble (.acceptByte 256) = none ∧
    assemble (.acceptBuf [1, 2, 3, 4, 5, 6]) = some [.accept [1, 2, 3, 4, 5, 6]] ∧
    assemble (.acceptBuf [1, 2, 3, 4, 5, 6, 7]) = some [.accept [1, 2, 3, 4, 5, 6], .accept [7]] := by decide +kernel

/-- Two IDLE blocks that differ in ACCEPT_IN_IDLE, `rx_len` and `idle_ticks`; and two in WAIT that differ in the parameter. -/
theorem witness_AcceptInIdleStays :
    (up.Inv ∧ ({ up with params := { up.params with acceptInIdle := .drop }, rxLen := 3, idleTicks := 1 } : State).Inv ∧
      up.SameButInIdle
        { up with params := { up.params with acceptInIdle := .drop }, rxLen := 3, idleTicks := 1 }) ∧
    small.Inv ∧ ({ small with params := { small.params with acceptInIdle := .drop } } : State).Inv ∧
    small.SameButInIdle { small with params := { small.params with acceptInIdle := .drop } } := by
  refine ⟨⟨inv_of_check (by decide +kernel), inv_of_check (by decide +kernel),
    ⟨rfl, rfl, rfl, rfl, rfl, rfl, rfl, rfl, rfl, rfl, rfl, rfl, rfl, rfl, rfl, fun _ h => EngineMode.noConfusion h⟩⟩,
    inv_of_check (by decide +kernel), inv_of_check (by decide +kernel),
    ⟨rfl, rfl, rfl, rfl, rfl, rfl, rfl, rfl, rfl, rfl, rfl, rfl, rfl, rfl, rfl, fun _ _ => ⟨rfl, rfl, rfl⟩⟩⟩

end Sys2Proof.Tests
end

section
/-! SUPPORT. The four ways a step begins (00_scope.md R9, R14; 60_exceptions.md R101, R120), each as an equation. -/

namespace Sys2Proof.Machine

/-- No step without valid parameters (R7, R9). -/
theorem step_of_not_valid {s : State} (hv : s.params.valid = false) : step s = .refused .noSuchConfiguration := by
  simp [step, hv]

/-- A static block (R120). -/
theorem step_of_port_nil {s : State} (hv : s.params.valid = true) (hp : s.port = []) : step s = .next s := by
  simp only [step, hv, if_true, fetch, hp]

/-- A legal word (R14, R49). -/
theorem step_of_decode_some {s : State} {c : HostCommand} {rest : List HostCommand} {i : Instr}
    (hv : s.params.valid = true) (hp : s.port = c :: rest) (hd : decode c.word = some i) :
    step s = exec i (s.present c rest) := by
  simp only [step, hv, if_true, fetch, hp, hd]

/-- An illegal word (R101). -/
theorem step_of_decode_none {s : State} {c : HostCommand} {rest : List HostCommand}
    (hv : s.params.valid = true) (hp : s.port = c :: rest) (hd : decode c.word = none) :
    step s = .next ((s.present c rest).putOut ⟨.illegalCommand, [], []⟩) := by
  simp only [step, hv, if_true, fetch, hp, hd, illegalCommand, fail_eq]

/-- Settles O6: the legal-word equation of `step`; presenting the command is the update the statement writes out. -/
theorem stepRunsThePresentedCommand : Obligations.StepRunsThePresentedCommand :=
  fun _ _ _ _ hv hp hd => step_of_decode_some hv hp hd

end Sys2Proof.Machine
end

section
/-! SUPPORT. What no command writes: the parameters, the schedule and the claim answer (00_scope.md R6 to R11, R14). -/

namespace Sys2Proof.Machine

/-- The frame of the inputs, over every path of every command. -/
theorem Effect.inputs_frame {i : Instr} {s t : State} (h : Effect i s t) :
    t.params = s.params ∧ t.port = s.port ∧ t.claimAnswer = s.claimAnswer := by
  cases h with
  | burst bs s hl =>
    obtain ⟨hparams, -, -, -, -, -, -, -, hport, hclaim, -, -⟩ := acceptBytes_frame bs s
    exact ⟨hparams, hport, hclaim⟩
  | _ => simp

/-- Every path of every command ends with `putOut`. -/
theorem Effect.out_isSome {i : Instr} {s t : State} (h : Effect i s t) : t.out.isSome = true := by
  cases h <;> rfl

/-- Settles O9: the frame of `Effect` for commands; for a step, that frame at the presented state, whose port is the tail. -/
theorem commandsChangeNoInput : Obligations.CommandsChangeNoInput := by
  refine ⟨fun i s t h => ?_, fun s t h => ?_⟩
  · have hE := effect_of_exec h
    obtain ⟨hparams, hport, hclaim⟩ := hE.inputs_frame
    exact ⟨hparams, hport, hclaim, hE.out_isSome⟩
  · obtain ⟨-, ⟨hp, rfl⟩ | ⟨c, rest, hp, ⟨i, -, hE⟩ | ⟨-, rfl⟩⟩⟩ := step_next_cases h
    · simp [hp]
    · obtain ⟨hparams, hport, -⟩ := hE.inputs_frame
      simp [hparams, hport, hp]
    · simp [hp]

end Sys2Proof.Machine
end

section
/-! SUPPORT. TX_BUF_CAP is checked by the step and read by nothing else (00_scope.md R9): changing it commutes with every path of every
command, and a finalize faults alike with it changed. -/

namespace Sys2Proof.Machine

/-- The state with another TX_BUF_CAP: the update that `Obligations.SendBufferSizeIsCheckedAndNotRead` writes out. -/
def State.withTxBufCap (n : Nat) (s : State) : State := { s with params := { s.params with txBufCap := n } }

theorem Params.valid_eq_false_of_txBufCap_lt {p : Params} (h : p.txBufCap < 8) : p.valid = false := by
  simp [Params.valid, h]

theorem State.withTxBufCap_valid {n : Nat} {s : State} (hn : 8 ≤ n) (hs : 8 ≤ s.params.txBufCap) :
    (s.withTxBufCap n).params.valid = s.params.valid := by
  have hsize : decide (8 ≤ n) = decide (8 ≤ s.params.txBufCap) := (decide_eq_true hn).trans (decide_eq_true hs).symm
  exact congrArg (decide (1 ≤ s.params.maxListeners.toNat) && ·) hsize

theorem acceptOne_withTxBufCap (n : Nat) (b : Byte) (s : State) :
    acceptOne b (s.withTxBufCap n) = (acceptOne b s).withTxBufCap n := by
  simp only [acceptOne, apply_ite (State.withTxBufCap n)]
  rfl

theorem acceptBytes_withTxBufCap (n : Nat) (bs : List Byte) (s : State) :
    acceptBytes bs (s.withTxBufCap n) = (acceptBytes bs s).withTxBufCap n := by
  induction bs generalizing s with
  | nil => rfl
  | cons b bs ih => rw [acceptBytes_cons, acceptBytes_cons, acceptOne_withTxBufCap, ih]

/-- Every path of a command is a path with another TX_BUF_CAP: no guard of `Effect` and no update names it. -/
theorem Effect.withTxBufCap (n : Nat) {i : Instr} {s t : State} (h : Effect i s t) :
    Effect i (s.withTxBufCap n) (t.withTxBufCap n) := by
  cases h with
  | created r s hl => exact .created r (s.withTxBufCap n) hl
  | alreadyLive r s hl => exact .alreadyLive r (s.withTxBufCap n) hl
  | notLive i s hl hi => exact .notLive i (s.withTxBufCap n) hl hi
  | destroyed s hl => exact .destroyed (s.withTxBufCap n) hl
  | denied a f r d s hl hg => exact .denied a f r d (s.withTxBufCap n) hl hg
  | busy a f r d s hl hg hm => exact .busy a f r d (s.withTxBufCap n) hl hg hm
  | sent a f r d s hl hg hm => exact .sent a f r d (s.withTxBufCap n) hl hg hm
  | byte b s hl =>
    have hE := Effect.byte b (s.withTxBufCap n) hl
    rwa [acceptOne_withTxBufCap] at hE
  | burst bs s hl =>
    have hE := Effect.burst bs (s.withTxBufCap n) hl
    rwa [acceptBytes_withTxBufCap] at hE
  | cleared s hl => exact .cleared (s.withTxBufCap n) hl
  | idleTick s hl hm => exact .idleTick (s.withTxBufCap n) hl hm
  | counted s hl hm hf => exact .counted (s.withTxBufCap n) hl hm hf
  | finalized bs s hl hm hf hq hb => exact .finalized bs (s.withTxBufCap n) hl hm hf hq hb
  | addedNull s hl => exact .addedNull (s.withTxBufCap n) hl
  | tableFull h s hl hh he => exact .tableFull h (s.withTxBufCap n) hl hh he
  | added h i s hl hh he => exact .added h i (s.withTxBufCap n) hl hh he
  | removedNull s hl => exact .removedNull (s.withTxBufCap n) hl
  | notFound h s hl hh he => exact .notFound h (s.withTxBufCap n) hl hh he
  | removed h i s hl hh he => exact .removed h i (s.withTxBufCap n) hl hh he

/-- A TICK that closes a window is a finalize (43_decode_tick.md R86). -/
theorem exec_tick_of_finalizes {s : State} (hl : s.live = true) (hm : s.mode = .wait) (hf : s.Finalizes) :
    exec .tick s = finalize s := by
  rw [exec, execTick_wait hl hm, if_pos hf]

theorem finalize_fault_withTxBufCap (n : Nat) {s : State} {f : Fault} (h : finalize s = .fault f) :
    finalize (s.withTxBufCap n) = .fault f := by
  obtain ⟨bs, -, -, e⟩ | ⟨hq, hb, e⟩ | ⟨hq, e⟩ := finalize_cases s
  · rw [e] at h
    cases h
  · have hq' : (s.withTxBufCap n).reqValid = true := hq
    have hb' : (s.withTxBufCap n).rxBytes = none := hb
    rw [← h, e, finalize, hq', hb']
    rfl
  · have hq' : (s.withTxBufCap n).reqValid = false := hq
    rw [← h, e, finalize, hq']
    rfl

/-- A command whose TX_BUF_CAP is changed ends, or faults, as it did before. -/
theorem exec_withTxBufCap_agrees (n : Nat) (i : Instr) (s : State) :
    outcomesAgree (fun t u => u = t.withTxBufCap n) (exec i s) (exec i (s.withTxBufCap n)) := by
  cases h : exec i s with
  | next t =>
    rw [exec_of_effect ((effect_of_exec h).withTxBufCap n)]
    rfl
  | fault f =>
    obtain ⟨rfl, hl, hm, hf, -⟩ := exec_fault h
    rw [exec_tick_of_finalizes hl hm hf] at h
    rw [exec_tick_of_finalizes (s := s.withTxBufCap n) hl hm hf, finalize_fault_withTxBufCap n h]
    rfl
  | refused r => exact absurd h exec_not_refused

/-- A step of a block with a legal TX_BUF_CAP agrees with the step under any other legal one. -/
theorem step_withTxBufCap_agrees {n : Nat} {s : State} (hn : 8 ≤ n) (hs : 8 ≤ s.params.txBufCap) :
    outcomesAgree (fun t u => u = t.withTxBufCap n) (step s) (step (s.withTxBufCap n)) := by
  have hvalid := State.withTxBufCap_valid hn hs
  cases hv : s.params.valid with
  | false =>
    rw [step_of_not_valid hv, step_of_not_valid (hvalid.trans hv)]
    rfl
  | true =>
    have hv' := hvalid.trans hv
    cases hp : s.port with
    | nil =>
      rw [step_of_port_nil hv hp, step_of_port_nil hv' hp]
      rfl
    | cons c rest =>
      cases hd : decode c.word with
      | none =>
        rw [step_of_decode_none hv hp hd, step_of_decode_none hv' hp hd]
        rfl
      | some i =>
        rw [step_of_decode_some hv hp hd, step_of_decode_some hv' hp hd]
        exact exec_withTxBufCap_agrees n i (s.present c rest)

/-- Settles O8: below 8 the parameters are not valid; from 8 on, changing TX_BUF_CAP commutes with the step. -/
theorem sendBufferSizeIsCheckedAndNotRead : Obligations.SendBufferSizeIsCheckedAndNotRead :=
  ⟨fun _ h => step_of_not_valid (Params.valid_eq_false_of_txBufCap_lt h),
    fun _ _ hn hs => step_withTxBufCap_agrees hn hs⟩

end Sys2Proof.Machine
end

section
/-! SUPPORT. The invariant of R29 (10_state.md) holds after power-on reset, every named update keeps it, and so does every path of
every command; a state that meets it never stops. -/

namespace Sys2Proof.Machine

/-! ### The updates keep the invariant -/

/-- A block that is not live has only its storage to keep in shape. -/
theorem State.inv_of_not_live {s : State} (hshape : s.Shaped) (hl : s.live = false) : s.Inv :=
  ⟨hshape, fun h => absurd (hl.symm.trans h) Bool.false_ne_true⟩

theorem State.powerOn_inv {p : Params} (hv : p.valid = true) : (State.powerOn p).Inv :=
  State.inv_of_not_live ⟨hv, List.length_replicate, List.length_replicate⟩ rfl

section
variable {s : State}

theorem State.Inv.putOut (h : s.Inv) (o : Output) : (s.putOut o).Inv := h

theorem State.Inv.present (h : s.Inv) (c : HostCommand) (rest : List HostCommand) : (s.present c rest).Inv := h

theorem State.Inv.destroy (h : s.Inv) : s.destroy.Inv :=
  State.powerOn_inv h.1.1

theorem State.Inv.create (h : s.Inv) (r : Role) : (s.create r).Inv := by
  obtain ⟨⟨hvalid, hbuf, -⟩, -⟩ := h
  refine ⟨⟨hvalid, hbuf, List.length_replicate⟩, fun _ => ⟨nofun, Nat.zero_le _, Nat.zero_le _, Nat.zero_le _, ?_⟩⟩
  exact fun x hx => List.eq_of_mem_replicate (List.mem_of_mem_drop hx)

theorem State.Inv.openWindow (h : s.Inv) (q : Request) : (s.openWindow q).Inv := by
  obtain ⟨hshape, hlive⟩ := h
  refine ⟨hshape, fun hl => ?_⟩
  obtain ⟨-, -, -, hactive, hempty⟩ := hlive hl
  exact ⟨fun _ => rfl, Nat.zero_le _, Nat.zero_le _, hactive, hempty⟩

theorem State.Inv.closeWindow (h : s.Inv) : s.closeWindow.Inv := by
  obtain ⟨hshape, hlive⟩ := h
  refine ⟨hshape, fun hl => ?_⟩
  obtain ⟨-, -, -, hactive, hempty⟩ := hlive hl
  exact ⟨nofun, Nat.zero_le _, Nat.zero_le _, hactive, hempty⟩

theorem State.Inv.clearParser (h : s.Inv) : s.clearParser.Inv := by
  obtain ⟨hshape, hlive⟩ := h
  refine ⟨hshape, fun hl => ?_⟩
  obtain ⟨hreq, -, -, hactive, hempty⟩ := hlive hl
  exact ⟨hreq, Nat.zero_le _, Nat.zero_le _, hactive, hempty⟩

/-- A TICK that does not close the window counts below the threshold (R20), so the counter does not wrap. -/
theorem State.Inv.countTick (h : s.Inv) (hf : ¬ s.Finalizes) : s.countTick.Inv := by
  obtain ⟨hshape, hlive⟩ := h
  refine ⟨hshape, fun hl => ?_⟩
  obtain ⟨hreq, hlen, -, hactive, hempty⟩ := hlive hl
  have hlt : s.idleTicks < s.params.timeoutTicks := by
    rw [State.Finalizes, not_or] at hf
    exact BitVec.lt_def.mpr (Nat.lt_of_not_le hf.1)
  refine ⟨hreq, hlen, ?_, hactive, hempty⟩
  rw [State.countTick_idleTicks, BitVec.le_def, toNat_add_one hlt]
  exact hlt

theorem State.Inv.acceptOne (h : s.Inv) (b : Byte) : (acceptOne b s).Inv := by
  obtain ⟨⟨hvalid, hbuf, hslots⟩, hlive⟩ := h
  refine ⟨by simpa [State.Shaped] using ⟨hvalid, hbuf, hslots⟩, fun hl => ?_⟩
  rw [acceptOne_live] at hl
  obtain ⟨hreq, hlen, hidle, hactive, hempty⟩ := hlive hl
  simp only [State.LiveInv, acceptOne_params, acceptOne_mode, acceptOne_reqValid, acceptOne_active, acceptOne_slots]
  exact ⟨hreq, acceptOne_rxLen_le hlen, acceptOne_idleTicks_le hidle,
    hactive, hempty⟩

theorem State.Inv.acceptBytes (h : s.Inv) (bs : List Byte) : (acceptBytes bs s).Inv := by
  induction bs generalizing s with
  | nil => exact h
  | cons b bs ih => exact ih (h.acceptOne b)

/-- The boundary moves to one past the filled slot where that slot lies at or beyond it (44_registry.md R90). -/
theorem State.Inv.fillSlot (h : s.Inv) {i : Nat} (hi : s.firstEmpty = some i) (x : Handler) : (s.fillSlot i x).Inv := by
  obtain ⟨⟨hvalid, hbuf, hslots⟩, hlive⟩ := h
  refine ⟨⟨hvalid, hbuf, by simpa using hslots⟩, fun hl => ?_⟩
  obtain ⟨hreq, hlen, hidle, hactive, hempty⟩ := hlive hl
  have hlt : i < s.params.maxListeners.toNat := hslots ▸ firstSlot_lt hi
  have hboundary := State.fillSlot_active_toNat (s := s) (h := x) (by omega : i < 255)
  refine ⟨hreq, hlen, hidle, ?_, ?_⟩
  · rw [BitVec.le_def] at hactive ⊢
    rw [hboundary, State.fillSlot_params]
    split <;> omega
  · rw [drop_all_zero_iff] at hempty ⊢
    rw [hboundary, State.fillSlot_slots]
    intro j hj hjlen
    rw [List.length_set] at hjlen
    have hij : i ≠ j ∧ s.active.toNat ≤ j := by split at hj <;> omega
    rw [List.getElem?_set_ne hij.1]
    exact hempty j hij.2 hjlen

/-- The boundary drops to the cleared slot where that slot was the last in range (R91). -/
theorem State.Inv.clearSlot (h : s.Inv) {i : Nat} {x : Handler} (hi : s.firstMatch x = some i) : (s.clearSlot i).Inv := by
  obtain ⟨⟨hvalid, hbuf, hslots⟩, hlive⟩ := h
  refine ⟨⟨hvalid, hbuf, by simpa using hslots⟩, fun hl => ?_⟩
  obtain ⟨hreq, hlen, hidle, hactive, hempty⟩ := hlive hl
  obtain ⟨hlt, -, -⟩ := State.firstMatch_eq_some hi
  have hboundary := State.clearSlot_active_toNat (s := s) (i := i)
  refine ⟨hreq, hlen, hidle, ?_, ?_⟩
  · rw [BitVec.le_def] at hactive ⊢
    rw [hboundary, State.clearSlot_params]
    split <;> omega
  · rw [drop_all_zero_iff] at hempty ⊢
    rw [hboundary, State.clearSlot_slots]
    intro j hj hjlen
    rw [List.length_set] at hjlen
    rcases eq_or_ne i j with rfl | hij
    · exact List.getElem?_set_self hjlen
    · rw [List.getElem?_set_ne hij]
      exact hempty j (by split at hj <;> omega) hjlen

end

/-! ### Commands and steps keep it -/

/-- Every path of every command keeps the invariant (R29). -/
theorem Effect.inv {i : Instr} {s t : State} (h : Effect i s t) (hs : s.Inv) : t.Inv := by
  cases h with
  | created r s hl => exact hs.create r
  | destroyed s hl => exact hs.destroy
  | sent a f r d s hl hg hm => exact hs.openWindow ⟨a, f, r, d⟩
  | byte b s hl => exact hs.acceptOne b
  | burst bs s hl => exact hs.acceptBytes bs
  | cleared s hl => exact hs.clearParser
  | counted s hl hm hf => exact hs.countTick hf
  | finalized bs s hl hm hf hq hb => exact hs.closeWindow
  | added x i s hl hx hi => exact hs.fillSlot hi x
  | removed x i s hl hx hi => exact hs.clearSlot hi
  | _ => exact hs.putOut _

/-- Settles O13: a step changes nothing, runs a command, or only reports an illegal word. -/
theorem stepKeepsTheInvariant : Obligations.StepKeepsTheInvariant := by
  intro s t hs h
  obtain ⟨-, ⟨-, rfl⟩ | ⟨c, rest, -, ⟨i, -, hE⟩ | ⟨-, rfl⟩⟩⟩ := step_next_cases h
  · exact hs
  · exact hE.inv (hs.present c rest)
  · exact (hs.present c rest).putOut _

/-! ### No stop -/

/-- In WAIT a request is stored, and `rx_len` is within the buffer: a finalize reads only what holds a value (R31). -/
theorem State.Inv.exec_ne_fault {s : State} (hs : s.Inv) {i : Instr} {f : Fault} : exec i s ≠ .fault f := by
  intro h
  obtain ⟨⟨-, hbuf, -⟩, hlive⟩ := hs
  obtain ⟨-, hl, hm, -, hnone⟩ := exec_fault h
  obtain ⟨hreq, hlen, -, -, -⟩ := hlive hl
  simp [hreq hm, State.rxBytes_of_shape hbuf hlen] at hnone

theorem State.Inv.exec_next {s : State} (hs : s.Inv) (i : Instr) : ∃ t, exec i s = .next t := by
  cases h : exec i s with
  | next t => exact ⟨t, rfl⟩
  | fault f => exact absurd h hs.exec_ne_fault
  | refused r => exact absurd h exec_not_refused

/-- Settles O14: the parameters are valid, an illegal word is reported, and no command stops. -/
theorem invariantStatesAlwaysStep : Obligations.InvariantStatesAlwaysStep := by
  intro s hs
  have hv : s.params.valid = true := hs.1.1
  cases hp : s.port with
  | nil => exact ⟨s, step_of_port_nil hv hp⟩
  | cons c rest =>
    cases hd : decode c.word with
    | none => exact ⟨_, step_of_decode_none hv hp hd⟩
    | some i =>
      rw [step_of_decode_some hv hp hd]
      exact (hs.present c rest).exec_next i

/-- Settles O12: `State.reset` is power-on with the example values, which are valid. -/
theorem powerOnMeetsTheInvariant : Obligations.PowerOnMeetsTheInvariant :=
  ⟨fun _ hv => State.powerOn_inv hv, State.powerOn_inv (by decide)⟩

end Sys2Proof.Machine
end

section
/-! SUPPORT. From the paths of `Effect` to the agreement of outcomes, of commands and of steps, and the paths of a block that is not live. -/

namespace Sys2Proof.Machine

/-- Commands agree when each path has its counterpart and each stop is the same. -/
theorem outcomesAgree_exec {R : State → State → Prop} {i : Instr} {s t : State}
    (hnext : ∀ s', Effect i s s' → ∃ t', Effect i t t' ∧ R s' t')
    (hfault : ∀ f, exec i s = .fault f → exec i t = .fault f) : outcomesAgree R (exec i s) (exec i t) := by
  cases h : exec i s with
  | next s' =>
    obtain ⟨t', hE, hR⟩ := hnext s' (effect_of_exec h)
    rw [exec_of_effect hE]
    exact hR
  | fault f =>
    rw [hfault f h]
    rfl
  | refused r => exact absurd h exec_not_refused

/-- Steps of blocks with the same schedule agree when static blocks, reports of an illegal word and commands do. -/
theorem outcomesAgree_step {R : State → State → Prop} {s t : State}
    (hvalid : t.params.valid = s.params.valid) (hport : t.port = s.port) (hstatic : R s t)
    (hillegal : ∀ c rest, R ((s.present c rest).putOut ⟨.illegalCommand, [], []⟩)
      ((t.present c rest).putOut ⟨.illegalCommand, [], []⟩))
    (hexec : ∀ c rest i, outcomesAgree R (exec i (s.present c rest)) (exec i (t.present c rest))) :
    outcomesAgree R (step s) (step t) := by
  cases hv : s.params.valid with
  | false =>
    rw [step_of_not_valid hv, step_of_not_valid (hvalid.trans hv)]
    rfl
  | true =>
    have hv' := hvalid.trans hv
    cases hp : s.port with
    | nil =>
      rw [step_of_port_nil hv hp, step_of_port_nil hv' (hport.trans hp)]
      exact hstatic
    | cons c rest =>
      have hp' := hport.trans hp
      cases hd : decode c.word with
      | none =>
        rw [step_of_decode_none hv hp hd, step_of_decode_none hv' hp' hd]
        exact hillegal c rest
      | some i =>
        rw [step_of_decode_some hv hp hd, step_of_decode_some hv' hp' hd]
        exact hexec c rest i

/-- The two paths of a block that is not live (R96, 60_exceptions.md R102); the others need a live one. -/
theorem Effect.of_not_live {i : Instr} {s t : State} (hl : s.live = false) (h : Effect i s t) :
    (∃ r, i = .init r ∧ t = (s.create r).putOut ⟨.ok, [], []⟩) ∨
    ((∀ r, i ≠ .init r) ∧ t = s.putOut ⟨.notInitialised, [], []⟩) := by
  cases h with
  | created r s _ => exact .inl ⟨r, rfl, rfl⟩
  | notLive i s _ hi => exact .inr ⟨hi, rfl⟩
  | _ => simp_all

/-- Which element a finalize misses depends on `reqValid`, the buffer and `rx_len` alone (10_state.md R31). -/
theorem finalize_fault_congr {s t : State} (hreq : t.reqValid = s.reqValid) (hbuf : t.rxBuf = s.rxBuf)
    (hlen : t.rxLen = s.rxLen) {f : Fault} (h : finalize s = .fault f) : finalize t = .fault f := by
  have hbytes : t.rxBytes = s.rxBytes := by rw [State.rxBytes, hbuf, hlen, State.rxBytes]
  obtain ⟨bs, -, -, e⟩ | ⟨hq, hb, e⟩ | ⟨hq, e⟩ := finalize_cases s
  · rw [e] at h
    cases h
  · rw [← h, e, finalize, hreq, hq, hbytes, hb, hbuf]
    rfl
  · rw [← h, e, finalize, hreq, hq]
    rfl

end Sys2Proof.Machine
end

section
/-! SUPPORT. No step reads an element that holds no value (10_state.md R31). A live state with the same values is the same state but for
`req` and `rx_buf`; whatever these hold beyond what the values fix, every path of every command has its counterpart. -/

namespace Sys2Proof.Machine

/-! ### A block that is not live -/

section
variable {s t : State} (h : s.SameValues t)
include h

theorem State.SameValues.putOut (o : Output) : (s.putOut o).SameValues (t.putOut o) := by
  obtain ⟨hparams, hport, hclaim, -, hl, hvalues⟩ := h
  exact ⟨hparams, hport, hclaim, rfl, hl, hvalues⟩

theorem State.SameValues.present (c : HostCommand) (rest : List HostCommand) :
    (s.present c rest).SameValues (t.present c rest) := by
  obtain ⟨hparams, -, -, hout, hl, hvalues⟩ := h
  exact ⟨hparams, rfl, rfl, hout, hl, hvalues⟩

/-- INIT writes every element but `req` and `rx_buf`, and these hold no value after it (45_lifecycle.md R96). -/
theorem State.SameValues.create (r : Role) : (s.create r).SameValues (t.create r) := by
  obtain ⟨hparams, hport, hclaim, hout, -, -⟩ := h
  exact ⟨hparams, hport, hclaim, hout, rfl, fun _ => ⟨rfl, rfl, rfl, rfl, by simp [hparams], rfl, rfl, nofun, rfl⟩⟩

theorem Effect.sameValues_of_not_live {i : Instr} {s' : State} (hl : s.live = false) (hE : Effect i s s') :
    ∃ t', Effect i t t' ∧ s'.SameValues t' := by
  obtain ⟨-, -, -, -, hlive, -⟩ := id h
  have hl' : t.live = false := hlive.symm.trans hl
  obtain ⟨r, rfl, rfl⟩ | ⟨hi, rfl⟩ := hE.of_not_live hl
  · exact ⟨_, .created r t hl', (h.create r).putOut _⟩
  · exact ⟨_, .notLive i t hl' hi, h.putOut _⟩

end

/-! ### A live block -/

/-- The state with this in `req` and `rx_buf`. -/
def State.withStorage (q : Request) (buf : List Byte) (s : State) : State := { s with req := q, rxBuf := buf }

/-- `q` is the request if one is stored, and `buf` is a buffer of RX_CAP bytes that starts with the held bytes. -/
structure State.Stores (s : State) (q : Request) (buf : List Byte) : Prop where
  req : s.reqValid = true → s.req = q
  shape : s.rxBuf.length = s.params.rxCap.toNat
  length : buf.length = s.params.rxCap.toNat
  held : s.rxBuf.take s.rxLen.toNat = buf.take s.rxLen.toNat

section
variable {s : State} {q : Request} {buf : List Byte}

theorem State.SameValues.eq_withStorage {t : State} (h : s.SameValues t) (hl : s.live = true) :
    t = s.withStorage t.req t.rxBuf := by
  obtain ⟨hparams, hport, hclaim, hout, hlive, hvalues⟩ := h
  obtain ⟨hrole, hmode, hidle, hlen, hslots, hactive, hstored, -, -⟩ := hvalues hl
  simp only [State.withStorage, hparams, hport, hclaim, hout, hlive, hrole, hmode, hidle, hlen, hslots, hactive, hstored]

theorem State.SameValues.stores {t : State} (h : s.SameValues t) (hl : s.live = true) (hs : s.Inv) (ht : t.Inv) :
    s.Stores t.req t.rxBuf := by
  obtain ⟨hparams, -, -, -, -, hvalues⟩ := h
  obtain ⟨-, -, -, hlen, -, -, -, hreq, hheld⟩ := hvalues hl
  exact ⟨hreq, hs.1.2.1, hparams ▸ ht.1.2.1, hlen ▸ hheld⟩

theorem State.Stores.sameValues (h : s.Stores q buf) : s.SameValues (s.withStorage q buf) :=
  ⟨rfl, rfl, rfl, rfl, rfl, fun _ => ⟨rfl, rfl, rfl, rfl, rfl, rfl, rfl, h.req, h.held⟩⟩

theorem take_succ_set {α : Type} {l : List α} {n : Nat} (hn : n < l.length) (a : α) :
    (l.set n a).take (n + 1) = l.take n ++ [a] := by
  rw [List.take_add_one, List.getElem?_set_self hn, List.take_set_of_le le_rfl, Option.toList_some]

/-- An inbound byte lands at `rx_len`, behind the held bytes (42_receive.md R73). -/
theorem acceptOne_withStorage (b : Byte) (h : s.Stores q buf) :
    ∃ buf', acceptOne b (s.withStorage q buf) = (acceptOne b s).withStorage q buf' ∧ (acceptOne b s).Stores q buf' := by
  have hshape := h.shape
  have hlength := h.length
  obtain ⟨hmode, hdrop, e⟩ | ⟨hnot, hlt, e⟩ | ⟨hnot, hge, e⟩ := acceptOne_cases b s
  · refine ⟨buf, ?_, by rwa [e]⟩
    rw [e, acceptOne, if_pos (by exact ⟨hmode, hdrop⟩)]
  · refine ⟨buf.set s.rxLen.toNat b, ?_, ?_⟩
    · rw [e, acceptOne, if_neg (by exact hnot), if_pos (by exact hlt)]
      rfl
    · have hlt' := BitVec.lt_def.mp hlt
      rw [e]
      refine ⟨h.req, by simpa using hshape, by simpa using hlength, ?_⟩
      simp only [State.rxAppend_rxBuf, State.rxAppend_rxLen, State.breakSilence_rxBuf, State.breakSilence_rxLen]
      rw [toNat_add_one hlt, take_succ_set (by omega), take_succ_set (by omega), h.held]
  · refine ⟨buf, ?_, by rw [e]; exact ⟨h.req, hshape, hlength, h.held⟩⟩
    rw [e, acceptOne, if_neg (by exact hnot), if_neg (by exact hge)]
    rfl

theorem acceptBytes_withStorage (bs : List Byte) (h : s.Stores q buf) :
    ∃ buf', acceptBytes bs (s.withStorage q buf) = (acceptBytes bs s).withStorage q buf' ∧
      (acceptBytes bs s).Stores q buf' := by
  induction bs generalizing s buf with
  | nil => exact ⟨buf, rfl, h⟩
  | cons b bs ih =>
    obtain ⟨buf', e, h'⟩ := acceptOne_withStorage b h
    rw [acceptBytes_cons, acceptBytes_cons, e]
    exact ih h'

theorem State.Stores.rxBytes (h : s.Stores q buf) {bs : List Byte} (hbs : s.rxBytes = some bs) :
    (s.withStorage q buf).rxBytes = some bs := by
  obtain ⟨hle, rfl⟩ := rxBytes_eq_some.mp hbs
  exact rxBytes_eq_some.mpr ⟨(hle.trans_eq h.shape).trans_eq h.length.symm, h.held⟩

/-- No guard of `Effect` reads what `Stores` leaves open, and no update brings it to where it holds a value. -/
theorem Effect.withStorage {i : Instr} {s' : State} (hl : s.live = true) (h : s.Stores q buf) (hE : Effect i s s') :
    ∃ t', Effect i (s.withStorage q buf) t' ∧ s'.SameValues t' := by
  have hv := h.sameValues
  cases hE with
  | created r s hn => exact absurd (hn.symm.trans hl) Bool.false_ne_true
  | notLive i s hn hi => exact absurd (hn.symm.trans hl) Bool.false_ne_true
  | alreadyLive r s hl => exact ⟨_, .alreadyLive r (s.withStorage q buf) hl, hv.putOut _⟩
  | destroyed s hl =>
    exact ⟨_, .destroyed (s.withStorage q buf) hl, rfl, rfl, rfl, rfl, rfl, nofun⟩
  | denied a f r d s hl hg => exact ⟨_, .denied a f r d (s.withStorage q buf) hl hg, hv.putOut _⟩
  | busy a f r d s hl hg hm => exact ⟨_, .busy a f r d (s.withStorage q buf) hl hg hm, hv.putOut _⟩
  | sent a f r d s hl hg hm =>
    have hopen : (s.openWindow ⟨a, f, r, d⟩).Stores ⟨a, f, r, d⟩ buf := ⟨fun _ => rfl, h.shape, h.length, rfl⟩
    exact ⟨_, .sent a f r d (s.withStorage q buf) hl hg hm, hopen.sameValues.putOut _⟩
  | byte b s hl =>
    obtain ⟨buf', e, h'⟩ := acceptOne_withStorage b h
    exact ⟨_, .byte b (s.withStorage q buf) hl, e ▸ h'.sameValues.putOut _⟩
  | burst bs s hl =>
    obtain ⟨buf', e, h'⟩ := acceptBytes_withStorage bs h
    exact ⟨_, .burst bs (s.withStorage q buf) hl, e ▸ h'.sameValues.putOut _⟩
  | cleared s hl =>
    have hreset : s.clearParser.Stores q buf := ⟨h.req, h.shape, h.length, rfl⟩
    exact ⟨_, .cleared (s.withStorage q buf) hl, hreset.sameValues.putOut _⟩
  | idleTick s hl hm => exact ⟨_, .idleTick (s.withStorage q buf) hl hm, hv.putOut _⟩
  | counted s hl hm hf =>
    have hcount : s.countTick.Stores q buf := ⟨h.req, h.shape, h.length, h.held⟩
    exact ⟨_, .counted (s.withStorage q buf) hl hm hf, hcount.sameValues.putOut _⟩
  | finalized bs s hl hm hf hq hb =>
    have hclose : s.closeWindow.Stores q buf := ⟨h.req, h.shape, h.length, rfl⟩
    rw [h.req hq]
    exact ⟨_, .finalized bs (s.withStorage q buf) hl hm hf hq (h.rxBytes hb), hclose.sameValues.putOut _⟩
  | addedNull s hl => exact ⟨_, .addedNull (s.withStorage q buf) hl, hv.putOut _⟩
  | tableFull x s hl hx he => exact ⟨_, .tableFull x (s.withStorage q buf) hl hx he, hv.putOut _⟩
  | added x i s hl hx he =>
    have hfill : (s.fillSlot i x).Stores q buf := ⟨h.req, h.shape, h.length, h.held⟩
    exact ⟨_, .added x i (s.withStorage q buf) hl hx he, hfill.sameValues.putOut _⟩
  | removedNull s hl => exact ⟨_, .removedNull (s.withStorage q buf) hl, hv.putOut _⟩
  | notFound x s hl hx he => exact ⟨_, .notFound x (s.withStorage q buf) hl hx he, hv.putOut _⟩
  | removed x i s hl hx he =>
    have hclear : (s.clearSlot i).Stores q buf := ⟨h.req, h.shape, h.length, h.held⟩
    exact ⟨_, .removed x i (s.withStorage q buf) hl hx he, hclear.sameValues.putOut _⟩

end

/-! ### Commands and steps -/

section
variable {s t : State} (hs : s.Inv) (ht : t.Inv) (h : s.SameValues t)
include hs ht h

theorem Effect.sameValues {i : Instr} {s' : State} (hE : Effect i s s') : ∃ t', Effect i t t' ∧ s'.SameValues t' := by
  cases hl : s.live with
  | false => exact hE.sameValues_of_not_live h hl
  | true =>
    rw [h.eq_withStorage hl]
    exact hE.withStorage hl (h.stores hl hs ht)

theorem exec_sameValues_agrees (i : Instr) : outcomesAgree State.SameValues (exec i s) (exec i t) :=
  outcomesAgree_exec (fun _ hE => hE.sameValues hs ht h) (fun _ hf => absurd hf hs.exec_ne_fault)

end

/-- Settles O15: the parameters and the schedule are the same, and every path of a command has its counterpart. -/
theorem noElementWithoutAValueIsRead : Obligations.NoElementWithoutAValueIsRead := by
  intro s t hs ht h
  obtain ⟨hparams, hport, -, -, -, -⟩ := id h
  exact outcomesAgree_step (by rw [hparams]) hport.symm h (fun c rest => (h.present c rest).putOut _)
    (fun c rest i => exec_sameValues_agrees (hs.present c rest) (ht.present c rest) (h.present c rest) i)

end Sys2Proof.Machine
end

section
/-! SUPPORT. `role` is written by INIT and read by nothing (10_state.md R18): changing it commutes with every path that does not write
it. -/

namespace Sys2Proof.Machine

/-- The state with another role: the update that `Obligations.RoleIsWrittenByInitAndNeverRead` writes out. -/
def State.withRole (r : Role) (s : State) : State := { s with role := r }

theorem acceptOne_withRole (r : Role) (b : Byte) (s : State) :
    acceptOne b (s.withRole r) = (acceptOne b s).withRole r := by
  simp only [acceptOne, apply_ite (State.withRole r)]
  rfl

theorem acceptBytes_withRole (r : Role) (bs : List Byte) (s : State) :
    acceptBytes bs (s.withRole r) = (acceptBytes bs s).withRole r := by
  induction bs generalizing s with
  | nil => rfl
  | cons b bs ih => rw [acceptBytes_cons, acceptBytes_cons, acceptOne_withRole, ih]

/-- INIT and DEINIT put a role of their own in place of the changed one; every other path carries it along. -/
theorem Effect.withRole (x : Role) {i : Instr} {s t : State} (h : Effect i s t) :
    ∃ x', Effect i (s.withRole x) (t.withRole x') := by
  cases h with
  | created r s hl => exact ⟨r, .created r (s.withRole x) hl⟩
  | destroyed s hl => exact ⟨.master, .destroyed (s.withRole x) hl⟩
  | alreadyLive r s hl => exact ⟨x, .alreadyLive r (s.withRole x) hl⟩
  | notLive i s hl hi => exact ⟨x, .notLive i (s.withRole x) hl hi⟩
  | denied a f r d s hl hg => exact ⟨x, .denied a f r d (s.withRole x) hl hg⟩
  | busy a f r d s hl hg hm => exact ⟨x, .busy a f r d (s.withRole x) hl hg hm⟩
  | sent a f r d s hl hg hm => exact ⟨x, .sent a f r d (s.withRole x) hl hg hm⟩
  | byte b s hl =>
    have hE := Effect.byte b (s.withRole x) hl
    rw [acceptOne_withRole] at hE
    exact ⟨x, hE⟩
  | burst bs s hl =>
    have hE := Effect.burst bs (s.withRole x) hl
    rw [acceptBytes_withRole] at hE
    exact ⟨x, hE⟩
  | cleared s hl => exact ⟨x, .cleared (s.withRole x) hl⟩
  | idleTick s hl hm => exact ⟨x, .idleTick (s.withRole x) hl hm⟩
  | counted s hl hm hf => exact ⟨x, .counted (s.withRole x) hl hm hf⟩
  | finalized bs s hl hm hf hq hb => exact ⟨x, .finalized bs (s.withRole x) hl hm hf hq hb⟩
  | addedNull s hl => exact ⟨x, .addedNull (s.withRole x) hl⟩
  | tableFull h s hl hh he => exact ⟨x, .tableFull h (s.withRole x) hl hh he⟩
  | added h i s hl hh he => exact ⟨x, .added h i (s.withRole x) hl hh he⟩
  | removedNull s hl => exact ⟨x, .removedNull (s.withRole x) hl⟩
  | notFound h s hl hh he => exact ⟨x, .notFound h (s.withRole x) hl hh he⟩
  | removed h i s hl hh he => exact ⟨x, .removed h i (s.withRole x) hl hh he⟩

/-- A command that faults is a finalize, and a finalize does not name `role`. -/
theorem exec_fault_withRole (x : Role) {i : Instr} {s : State} {f : Fault} (h : exec i s = .fault f) :
    exec i (s.withRole x) = .fault f := by
  obtain ⟨rfl, hl, hm, hf, -⟩ := exec_fault h
  rw [exec_tick_of_finalizes hl hm hf] at h
  rw [exec_tick_of_finalizes (s := s.withRole x) hl hm hf]
  exact finalize_fault_congr (s := s) (t := s.withRole x) rfl rfl rfl h

theorem exec_withRole_agrees (x : Role) (i : Instr) (s : State) :
    outcomesAgree (fun t u => u.out = t.out ∧ u = { t with role := u.role }) (exec i s) (exec i (s.withRole x)) := by
  refine outcomesAgree_exec (fun t hE => ?_) (fun f hf => exec_fault_withRole x hf)
  obtain ⟨x', hE'⟩ := hE.withRole x
  exact ⟨t.withRole x', hE', rfl, rfl⟩

/-- What each path does to `role`: INIT writes its operand, DEINIT leaves no value, every other path leaves it as it was. -/
theorem Effect.role_cases {i : Instr} {s t : State} (h : Effect i s t) :
    t.role = s.role ∨ t.holdsValue .role = false ∨ ∃ r, i = .init r ∧ s.live = false ∧ t.role = r := by
  cases h with
  | created r s hl => exact .inr (.inr ⟨r, rfl, hl, rfl⟩)
  | destroyed s hl => exact .inr (.inl rfl)
  | byte b s hl => exact .inl (acceptOne_role b s)
  | burst bs s hl =>
    obtain ⟨-, -, hrole, -⟩ := acceptBytes_frame bs s
    exact .inl hrole
  | _ => exact .inl rfl

/-- Settles O24: `role` path by path, and the commutation of the commands with a change of it. -/
theorem roleIsWrittenByInitAndNeverRead : Obligations.RoleIsWrittenByInitAndNeverRead := by
  refine ⟨fun i s t h => (effect_of_exec h).role_cases, fun r s hl => ?_, fun i s r => exec_withRole_agrees r i s, rfl, rfl⟩
  exact ⟨_, exec_of_effect (.created r s hl), rfl⟩

end Sys2Proof.Machine
end

section
/-! SUPPORT. How a block becomes live and how it comes to WAIT (10_state.md R19, R30). -/

namespace Sys2Proof.Machine

/-- A path that ends in WAIT began there, or is a successful SEND. -/
theorem Effect.of_wait {i : Instr} {s t : State} (h : Effect i s t) (hw : t.mode = .wait) :
    s.mode = .wait ∨ ∃ a f r d, i = .send a f r d ∧
      t = (s.openWindow ⟨a, f, r, d⟩).putOut ⟨.ok, [.claim, .write 8 (build ⟨a, f, r, d⟩), .release], []⟩ := by
  cases h with
  | sent a f r d s hl hg hm => exact .inr ⟨a, f, r, d, rfl, rfl⟩
  | created r s hl => exact nomatch hw
  | destroyed s hl => exact nomatch hw
  | finalized bs s hl hm hf hq hb => exact .inl hm
  | byte b s hl => exact .inl ((acceptOne_mode b s).symm.trans hw)
  | burst bs s hl =>
    obtain ⟨-, -, -, hmode, -⟩ := acceptBytes_frame bs s
    exact .inl (hmode.symm.trans hw)
  | _ => exact .inl hw

/-- Settles O21: of the paths that end in WAIT only the successful SEND begins in IDLE. -/
theorem onlyASuccessfulSendOpensAWindow : Obligations.OnlyASuccessfulSendOpensAWindow := by
  intro i s t _ hidle h _ hw
  obtain hwait | ⟨a, f, r, d, rfl, rfl⟩ := (effect_of_exec h).of_wait hw
  · exact nomatch hidle.symm.trans hwait
  · exact ⟨⟨a, f, r, d, rfl, rfl⟩, rfl, rfl⟩

/-- Only INIT makes a block live. -/
theorem Effect.live_iff_init {i : Instr} {s t : State} (hl : s.live = false) (h : Effect i s t) :
    t.live = true ↔ ∃ r, i = .init r := by
  obtain ⟨r, rfl, rfl⟩ | ⟨hi, rfl⟩ := h.of_not_live hl
  · simp
  · simp [hl, hi]

theorem State.holdsValue_of_not_live {s : State} (hl : s.live = false) (e : Element) : s.holdsValue e = false := by
  cases e <;> simp [State.holdsValue, hl]

/-- Settles O10: power-on leaves the block not live, and INIT from there is `State.create`. -/
theorem powerOnHoldsNoValueUntilInit : Obligations.PowerOnHoldsNoValueUntilInit := by
  intro p
  have hl := State.powerOn_live p
  refine ⟨hl, State.holdsValue_of_not_live hl, fun i t h => (effect_of_exec h).live_iff_init hl, fun r => ?_⟩
  exact ⟨_, exec_of_effect (.created r (State.powerOn p) hl), rfl, rfl, rfl, rfl, rfl, rfl, rfl, rfl⟩

end Sys2Proof.Machine
end

section
/-! SUPPORT. Bursts of inbound bytes (20_memory.md R38, R43, R130): what the receive buffer holds after one, and the ACCEPT commands
of ACCEPT_BUF (30_encoding.md R60) as one burst. -/

namespace Sys2Proof.Machine

/-! ### Running commands one after another -/

@[simp] theorem execAll_nil (s : State) : execAll [] s = .next s := rfl

theorem execAll_cons_of_effect {i : Instr} {s t : State} (h : Effect i s t) (is : List Instr) :
    execAll (i :: is) s = execAll is t := by
  simp only [execAll, exec_of_effect h]

/-! ### A burst -/

theorem acceptBytes_live (bs : List Byte) (s : State) : (acceptBytes bs s).live = s.live := by
  obtain ⟨-, hlive, -⟩ := acceptBytes_frame bs s
  exact hlive

/-- In a live block the held bytes fit the buffer (10_state.md R24). -/
theorem State.Inv.held_length_le {s : State} {held : List Byte} (hs : s.Inv) (hl : s.live = true)
    (hh : s.rxBytes = some held) : held.length ≤ s.params.rxCap.toNat := by
  obtain ⟨-, hlen, -⟩ := hs.2 hl
  rw [State.rxBytes_length hh]
  exact BitVec.le_def.mp hlen

/-- `rxBytes_acceptOne` byte by byte: cutting off after each byte leaves what one cut at the end leaves (`take_append_take`). -/
theorem rxBytes_acceptBytes {bs held : List Byte} {s : State} (hs : s.Inv) (hl : s.live = true)
    (hm : s.mode = .wait ∨ s.params.acceptInIdle = .append) (hh : s.rxBytes = some held) :
    (acceptBytes bs s).rxBytes = some ((held ++ bs).take s.params.rxCap.toNat) ∧
      (bs ≠ [] → (acceptBytes bs s).idleTicks = 0) := by
  induction bs generalizing s held with
  | nil =>
    rw [acceptBytes_nil, hh, List.append_nil, List.take_of_length_le (hs.held_length_le hl hh)]
    exact ⟨rfl, fun h => absurd rfl h⟩
  | cons b bs ih =>
    have hinv := hs.acceptOne b
    obtain ⟨⟨-, hbuf, -⟩, hlive⟩ := hs
    obtain ⟨-, hlen, -⟩ := hlive hl
    obtain ⟨hbytes, hidle⟩ := rxBytes_acceptOne (b := b) hbuf hlen hm hh
    obtain ⟨hrest, hrestIdle⟩ := ih hinv (by simpa using hl) (by simpa using hm) hbytes
    rw [acceptBytes_cons, hrest, acceptOne_params, take_append_take, List.append_assoc, List.singleton_append]
    refine ⟨rfl, fun _ => ?_⟩
    obtain rfl | hbs := eq_or_ne bs []
    · exact hidle
    · exact hrestIdle hbs

/-! ### ACCEPT_BUF -/

/-- However many bytes there are, the ACCEPTs of ACCEPT_BUF end as one burst does. -/
theorem execAll_acceptChunks {bs : List Byte} {s : State} (hl : s.live = true) (hbs : bs ≠ []) :
    execAll (acceptChunks bs) s = .next ((acceptBytes bs s).putOut ⟨.ok, [], []⟩) := by
  induction bs using acceptChunks.induct generalizing s with
  | case1 b0 b1 b2 b3 b4 b5 rest ih =>
    rw [acceptChunks, execAll_cons_of_effect (.burst [b0, b1, b2, b3, b4, b5] s hl)]
    obtain rfl | hrest := eq_or_ne rest []
    · rw [acceptChunks, execAll_nil]
    · rw [ih (by rw [State.putOut_live, acceptBytes_live, hl]) hrest, acceptBytes_putOut, State.putOut_putOut,
        ← acceptBytes_append]
      simp only [List.cons_append, List.nil_append]
  | case2 => exact absurd rfl hbs
  | case3 bs hlong hnil =>
    rw [acceptChunks, execAll_cons_of_effect (.burst bs s hl), execAll_nil] <;> assumption

/-- Settles O37: the ACCEPTs of ACCEPT_BUF are one burst, and a burst is its bytes one by one. -/
theorem bufferHoldsTheFirstBytes : Obligations.BufferHoldsTheFirstBytes := by
  intro bs held s hs hl hm hh
  obtain ⟨hheld, hidle⟩ := rxBytes_acceptBytes (bs := bs) hs hl hm hh
  obtain rfl | hbs := eq_or_ne bs []
  · exact ⟨s, rfl, hheld, fun h => absurd rfl h, fun _ => rfl⟩
  · exact ⟨_, execAll_acceptChunks hl hbs, hheld, fun h => ⟨hidle h, rfl⟩, fun h => absurd h hbs⟩

end Sys2Proof.Machine
end

section
/-! SUPPORT. A command word as its fields (30_encoding.md R49 to R53): what the decoder reads from each format, and when a word put
together from parts is a given word. Together they say that `decode` and `encode` are the two directions of one relation. -/

namespace Sys2Proof

/-! ### Words put together from parts -/

/-- Two parts make up a field exactly when each is its piece of the field. -/
theorem append_eq_field_iff {n v k : Nat} (x : BitVec v) (y : BitVec k) (w : BitVec n) (s : Nat) :
    x ++ y = w.extractLsb' s (v + k) ↔ x = w.extractLsb' (s + k) v ∧ y = w.extractLsb' s k := by
  rw [← field_join w rfl]
  constructor
  · intro h
    have hhigh := congrArg (BitVec.extractLsb' k v) h
    have hlow := congrArg (BitVec.extractLsb' 0 k) h
    rw [BitVec.extractLsb'_append_eq_left, BitVec.extractLsb'_append_eq_left] at hhigh
    rw [BitVec.extractLsb'_append_eq_right, BitVec.extractLsb'_append_eq_right] at hlow
    exact ⟨hhigh, hlow⟩
  · rintro ⟨rfl, rfl⟩
    rfl

theorem append_eq_iff {v k : Nat} (x : BitVec v) (y : BitVec k) (w : BitVec (v + k)) :
    x ++ y = w ↔ x = w.extractLsb' k v ∧ y = w.extractLsb' 0 k := by
  have h := append_eq_field_iff x y w 0
  rwa [BitVec.extractLsb'_eq_self, Nat.zero_add] at h

/-- An opcode alone (format N, R50). -/
theorem wordN_eq_iff {c : Byte} {w : Word} :
    (c ++ 0#56 : BitVec (8 + 56)) = w ↔ opcodeField w = c ∧ w.extractLsb' 0 56 = 0#56 := by
  rw [append_eq_iff, opcodeField, eq_comm (a := c), eq_comm (a := 0#56)]

/-- An opcode, reserved bits and one operand in the lowest bits (formats I, B and L, R50). -/
theorem wordLow_eq_iff {r k : Nat} {c : Byte} {x : BitVec k} {w : BitVec (8 + r + k)} :
    c ++ 0#r ++ x = w ↔ w.extractLsb' (k + r) 8 = c ∧ w.extractLsb' k r = 0#r ∧ w.extractLsb' 0 k = x := by
  rw [append_eq_iff, append_eq_field_iff, and_assoc, eq_comm (a := c), eq_comm (a := 0#r), eq_comm (a := x)]

/-- Format S (R50). -/
theorem wordS_eq_iff {c a f : Byte} {r d : Half} {w : Word} :
    (c ++ a ++ f ++ r ++ d ++ 0#8 : BitVec (8 + 8 + 8 + 16 + 16 + 8)) = w ↔
      opcodeField w = c ∧ w.extractLsb' 48 8 = a ∧ w.extractLsb' 40 8 = f ∧ w.extractLsb' 24 16 = r ∧
        w.extractLsb' 8 16 = d ∧ w.extractLsb' 0 8 = 0#8 := by
  rw [append_eq_iff, append_eq_field_iff, append_eq_field_iff, append_eq_field_iff, append_eq_field_iff]
  simp only [opcodeField, and_assoc, Nat.reduceAdd, eq_comm (b := BitVec.extractLsb' _ _ w)]

/-- Format A, its six byte fields taken as one list (R50, R51). -/
theorem wordA_eq_iff {c b0 b1 b2 b3 b4 b5 : Byte} {n : BitVec 3} {w : Word} :
    (c ++ 0#5 ++ n ++ b0 ++ b1 ++ b2 ++ b3 ++ b4 ++ b5 : BitVec (8 + 5 + 3 + 8 + 8 + 8 + 8 + 8 + 8)) = w ↔
      opcodeField w = c ∧ w.extractLsb' 51 5 = 0#5 ∧ w.extractLsb' 48 3 = n ∧
        byteFields w = [b0, b1, b2, b3, b4, b5] := by
  rw [append_eq_iff, append_eq_field_iff, append_eq_field_iff, append_eq_field_iff, append_eq_field_iff,
    append_eq_field_iff, append_eq_field_iff, append_eq_field_iff]
  simp only [opcodeField, byteFields, and_assoc, Nat.reduceAdd, List.cons.injEq, and_true,
    eq_comm (b := BitVec.extractLsb' _ _ w)]

/-! ### What each format's decoder reads -/

theorem decodeN_eq_some_iff {i j : Instr} {w : Word} : decodeN i w = some j ↔ w.extractLsb' 0 56 = 0#56 ∧ i = j := by
  simp [decodeN]

theorem decodeI_eq_some_iff {j : Instr} {w : Word} :
    decodeI w = some j ↔ w.extractLsb' 1 55 = 0#55 ∧ .init (Role.ofBit (w.extractLsb' 0 1)) = j := by
  simp [decodeI]

theorem decodeS_eq_some_iff {j : Instr} {w : Word} :
    decodeS w = some j ↔ w.extractLsb' 0 8 = 0#8 ∧
      .send (w.extractLsb' 48 8) (w.extractLsb' 40 8) (w.extractLsb' 24 16) (w.extractLsb' 8 16) = j := by
  simp [decodeS]

theorem decodeB_eq_some_iff {j : Instr} {w : Word} :
    decodeB w = some j ↔ w.extractLsb' 8 48 = 0#48 ∧ .acceptByte (w.extractLsb' 0 8) = j := by
  simp [decodeB]

theorem decodeL_eq_some_iff {mk : Handler → Instr} {j : Instr} {w : Word} :
    decodeL mk w = some j ↔ w.extractLsb' 16 40 = 0#40 ∧ mk (w.extractLsb' 0 16) = j := by
  simp [decodeL]

/-- A list split at `n` into `bs` and a fill of `z`: the byte fields of an ACCEPT that pass R53 (d). -/
theorem take_drop_replicate_iff {α : Type} {l bs : List α} {z : α} {m n : Nat} (hl : l.length = m) (hn : n ≤ m) :
    l.drop n = List.replicate (m - n) z ∧ l.take n = bs ↔ bs.length = n ∧ l = bs ++ List.replicate (m - n) z := by
  constructor
  · rintro ⟨hdrop, rfl⟩
    exact ⟨by simp [hl, hn], by rw [← hdrop, List.take_append_drop]⟩
  · rintro ⟨rfl, rfl⟩
    simp

theorem decodeA_eq_some_iff {j : Instr} {w : Word} :
    decodeA w = some j ↔ w.extractLsb' 51 5 = 0#5 ∧ ∃ bs, .accept bs = j ∧ bs.length ≤ 6 ∧
      (w.extractLsb' 48 3).toNat = bs.length ∧ byteFields w = bs ++ List.replicate (6 - bs.length) 0#8 := by
  have hsix : (byteFields w).length = 6 := rfl
  simp only [decodeA, Option.ite_none_right_eq_some, Option.some.injEq, and_assoc]
  refine and_congr_right fun _ => ⟨?_, ?_⟩
  · rintro ⟨hn, hdrop, rfl⟩
    obtain ⟨hlen, hfields⟩ := (take_drop_replicate_iff hsix hn).mp ⟨hdrop, rfl⟩
    exact ⟨_, rfl, by rwa [hlen], hlen.symm, by rwa [hlen]⟩
  · rintro ⟨bs, rfl, hle, hn, hfields⟩
    rw [hn]
    obtain ⟨hdrop, htake⟩ := (take_drop_replicate_iff hsix hle).mpr ⟨rfl, hfields⟩
    exact ⟨hle, hdrop, by rw [htake]⟩

/-! ### The opcode picks the format -/

/-- The format decoder of the command's row (R52). -/
def Instr.formatDecoder : Instr → Word → Option Instr
  | .init _ => decodeI
  | .deinit => decodeN .deinit
  | .send _ _ _ _ => decodeS
  | .acceptByte _ => decodeB
  | .accept _ => decodeA
  | .resetParser => decodeN .resetParser
  | .tick => decodeN .tick
  | .addListener _ => decodeL .addListener
  | .removeListener _ => decodeL .removeListener

theorem decode_of_opcodeField_eq {i : Instr} {w : Word} (h : opcodeField w = i.opcode) : decode w = i.formatDecoder w := by
  cases i <;> simp [decode, h, Instr.opcode, Instr.formatDecoder]

/-- A legal word's opcode is that of its command. -/
theorem opcodeField_of_decode {i : Instr} {w : Word} (h : decode w = some i) : opcodeField w = i.opcode := by
  unfold decode at h
  split at h
  · obtain ⟨-, rfl⟩ := decodeI_eq_some_iff.mp h; assumption
  split at h
  · obtain ⟨-, rfl⟩ := decodeN_eq_some_iff.mp h; assumption
  split at h
  · obtain ⟨-, rfl⟩ := decodeS_eq_some_iff.mp h; assumption
  split at h
  · obtain ⟨-, rfl⟩ := decodeB_eq_some_iff.mp h; assumption
  split at h
  · obtain ⟨-, _, rfl, -⟩ := decodeA_eq_some_iff.mp h; assumption
  split at h
  · obtain ⟨-, rfl⟩ := decodeN_eq_some_iff.mp h; assumption
  split at h
  · obtain ⟨-, rfl⟩ := decodeN_eq_some_iff.mp h; assumption
  split at h
  · obtain ⟨-, rfl⟩ := decodeL_eq_some_iff.mp h; assumption
  split at h
  · obtain ⟨-, rfl⟩ := decodeL_eq_some_iff.mp h; assumption
  · cases h

theorem opcodeField_encode (i : Instr) : opcodeField (encode i) = i.opcode := by
  cases i with
  | init r => exact Laws.Opcode.init r
  | deinit => exact Laws.Opcode.deinit
  | send a f r d => exact Laws.Opcode.send a f r d
  | acceptByte b => exact Laws.Opcode.acceptByte b
  | accept bs => exact Laws.Opcode.accept bs
  | resetParser => exact Laws.Opcode.resetParser
  | tick => exact Laws.Opcode.tick
  | addListener h => exact Laws.Opcode.addListener h
  | removeListener h => exact Laws.Opcode.removeListener h

/-! ### Decoding and encoding -/

theorem Role.ofBit_eq_iff {b : BitVec 1} {r : Role} : Role.ofBit b = r ↔ b = r.bit := by
  revert b
  cases r <;> decide

/-- The byte fields an ACCEPT's word has: its bytes and then zeros (R50, R59). -/
theorem getD_fields_eq {bs : List Byte} (h : bs.length ≤ 6) :
    [bs.getD 0 0, bs.getD 1 0, bs.getD 2 0, bs.getD 3 0, bs.getD 4 0, bs.getD 5 0] =
      bs ++ List.replicate (6 - bs.length) 0#8 := by
  match bs, h with
  | [], _ | [_], _ | [_, _], _ | [_, _, _], _ | [_, _, _, _], _ | [_, _, _, _, _], _ | [_, _, _, _, _, _], _ => rfl

section
variable {w : Word}

theorem decodeN_iff_word {i : Instr} (hop : opcodeField w = i.opcode) :
    decodeN i w = some i ↔ (i.opcode ++ 0#56 : BitVec (8 + 56)) = w := by
  rw [decodeN_eq_some_iff, wordN_eq_iff]
  simp [hop]

theorem decodeI_iff_word {r : Role} (hop : opcodeField w = 0x01#8) :
    decodeI w = some (.init r) ↔ encode (.init r) = w := by
  rw [decodeI_eq_some_iff, Instr.init.injEq, Role.ofBit_eq_iff]
  exact (and_iff_right hop).symm.trans (wordLow_eq_iff (r := 55) (k := 1)).symm

theorem decodeS_iff_word {a f : Byte} {r d : Half} (hop : opcodeField w = 0x10#8) :
    decodeS w = some (.send a f r d) ↔ encode (.send a f r d) = w := by
  rw [decodeS_eq_some_iff, Instr.send.injEq, encode, wordS_eq_iff]
  tauto

theorem decodeB_iff_word {b : Byte} (hop : opcodeField w = 0x20#8) :
    decodeB w = some (.acceptByte b) ↔ encode (.acceptByte b) = w := by
  rw [decodeB_eq_some_iff, Instr.acceptByte.injEq]
  exact (and_iff_right hop).symm.trans (wordLow_eq_iff (r := 48) (k := 8)).symm

/-- A length of at most 6 fits the 3-bit field n (R50). -/
theorem lengthField_eq_iff {n : BitVec 3} {l : Nat} (h : l ≤ 6) : n.toNat = l ↔ n = BitVec.ofNat 3 l := by
  rw [← BitVec.toNat_inj, BitVec.toNat_ofNat, Nat.mod_eq_of_lt (by omega)]

theorem decodeA_iff_word {bs : List Byte} (hop : opcodeField w = 0x21#8) :
    decodeA w = some (.accept bs) ↔ bs.length ≤ 6 ∧ encode (.accept bs) = w := by
  simp only [decodeA_eq_some_iff, Instr.accept.injEq, exists_eq_left, and_left_comm (b := bs.length ≤ 6)]
  refine and_congr_right fun hle => ?_
  rw [encode, wordA_eq_iff, getD_fields_eq hle, lengthField_eq_iff hle]
  exact (and_iff_right hop).symm

theorem decodeL_iff_word {h : Handler} {mk : Handler → Instr} {c : Byte} (hmk : Function.Injective mk) (hop : opcodeField w = c) :
    decodeL mk w = some (mk h) ↔ (c ++ 0#40 ++ h : BitVec (8 + 40 + 16)) = w := by
  rw [decodeL_eq_some_iff, hmk.eq_iff]
  exact (and_iff_right hop).symm.trans (wordLow_eq_iff (r := 40) (k := 16)).symm

/-- The round trip within one row: the format's decoder and the encoder are inverse to each other. -/
theorem formatDecoder_eq_some_iff {i : Instr} (hop : opcodeField w = i.opcode) :
    i.formatDecoder w = some i ↔ i.wellFormed = true ∧ encode i = w := by
  cases i with
  | init r => exact (decodeI_iff_word hop).trans (and_iff_right rfl).symm
  | deinit => exact (decodeN_iff_word hop).trans (and_iff_right rfl).symm
  | send a f r d => exact (decodeS_iff_word hop).trans (and_iff_right rfl).symm
  | acceptByte b => exact (decodeB_iff_word hop).trans (and_iff_right rfl).symm
  | accept bs => exact (decodeA_iff_word hop).trans (and_congr_left' decide_eq_true_iff.symm)
  | resetParser => exact (decodeN_iff_word hop).trans (and_iff_right rfl).symm
  | tick => exact (decodeN_iff_word hop).trans (and_iff_right rfl).symm
  | addListener h => exact (decodeL_iff_word (fun _ _ => Instr.addListener.inj) hop).trans (and_iff_right rfl).symm
  | removeListener h => exact (decodeL_iff_word (fun _ _ => Instr.removeListener.inj) hop).trans (and_iff_right rfl).symm

/-- `decode` and `encode` are the two directions of one relation between words and well-formed commands. -/
theorem decode_eq_some_iff {i : Instr} : decode w = some i ↔ i.wellFormed = true ∧ encode i = w := by
  by_cases hop : opcodeField w = i.opcode
  · rw [decode_of_opcodeField_eq hop, formatDecoder_eq_some_iff hop]
  · exact iff_of_false (fun h => hop (opcodeField_of_decode h)) fun ⟨_, he⟩ => hop (he ▸ opcodeField_encode i)

end

/-- Settles O2: a well-formed command and its word meet `decode_eq_some_iff`. -/
theorem decodeOfEncodeIsTheCommand : Obligations.DecodeOfEncodeIsTheCommand :=
  fun _ hwf => decode_eq_some_iff.mpr ⟨hwf, rfl⟩

/-- Settles O3: the other direction of `decode_eq_some_iff`. -/
theorem encodeOfDecodeIsTheWord : Obligations.EncodeOfDecodeIsTheWord :=
  fun _ _ h => decode_eq_some_iff.mp h

end Sys2Proof
end

section
/-! SUPPORT. The opcode table (spec/opcode_table.json) against the decoder: a word agrees with a row exactly when its opcode is the row's
and the row's reserved bits are 0, and the decoder refuses exactly the words of R53. -/

namespace Sys2Proof

open Machine

/-! ### Rows of the table -/

/-- Every mask covers the opcode. -/
theorem opcodeField_of_agrees {w : Word} {row : OpcodeRow} (hrow : row ∈ opcodeTable) (h : w &&& row.mask = row.pattern) :
    opcodeField w = opcodeField row.pattern := by
  have hmask : ∀ row ∈ opcodeTable, opcodeField row.mask = BitVec.allOnes 8 := by decide
  rw [← h, opcodeField, opcodeField, BitVec.extractLsb'_and, ← opcodeField, ← opcodeField, hmask row hrow,
    BitVec.and_allOnes]

/-- The opcodes of the rows differ (R52). -/
theorem row_eq_of_opcodeField_eq :
    ∀ r ∈ opcodeTable, ∀ q ∈ opcodeTable, opcodeField r.pattern = opcodeField q.pattern → r = q := by decide

/-- Settles O5: two rows that a word agrees with have the word's opcode, and rows with one opcode are one row. -/
theorem opcodeRowsDoNotOverlap : Obligations.OpcodeRowsDoNotOverlap :=
  fun _ r hr q hq hwr hwq =>
    row_eq_of_opcodeField_eq r hr q hq ((opcodeField_of_agrees hr hwr).symm.trans (opcodeField_of_agrees hq hwq))

/-- Every command has a row. -/
theorem exists_row_of_opcode (i : Instr) : ∃ row ∈ opcodeTable, i.opcode = opcodeField row.pattern := by
  cases i <;> simp only [Instr.opcode] <;> decide

/-! ### Reserved bits -/

/-- A mask of ones at a field tests that field. -/
theorem and_ones_eq_zero_iff {n s l : Nat} (h : s + l ≤ n) {x : BitVec n} :
    x &&& (BitVec.allOnes l).setWidth n <<< s = 0#n ↔ x.extractLsb' s l = 0#l := by
  constructor
  · intro hx
    ext j hj
    have hbit := congrArg (BitVec.getLsbD · (s + j)) hx
    simpa [hj, show s + j < n by omega] using hbit
  · intro hx
    ext j hj
    by_cases hin : s ≤ j ∧ j - s < l
    · have hbit : x.getLsbD j = false := by
        simpa [hin.1, hin.2] using congrArg (BitVec.getLsbD · (j - s)) hx
      rw [BitVec.getElem_and, ← BitVec.getLsbD_eq_getElem, hbit, Bool.false_and, BitVec.getElem_zero]
    · simp
      omega

/-- The mask of a row whose reserved bits are the field of `l` bits from bit `s` on. -/
def rowMask (s l : Nat) : Word := (BitVec.allOnes 8 ++ (BitVec.allOnes l).setWidth 56 <<< s : BitVec (8 + 56))

/-- A word agrees with a row when its opcode is the row's and its reserved bits are 0 (R53 (a), (b)). -/
theorem and_rowMask_eq_iff {s l : Nat} (h : s + l ≤ 56) {c : Byte} {w : Word} :
    w &&& rowMask s l = (c ++ 0#56 : BitVec (8 + 56)) ↔ opcodeField w = c ∧ w.extractLsb' s l = 0#l := by
  have hop : opcodeField (w &&& rowMask s l) = opcodeField w := by
    rw [opcodeField, BitVec.extractLsb'_and, rowMask, BitVec.extractLsb'_append_eq_left, BitVec.and_allOnes, opcodeField]
  have hrest : (w &&& rowMask s l).extractLsb' 0 56 = w.extractLsb' 0 56 &&& (BitVec.allOnes l).setWidth 56 <<< s := by
    rw [BitVec.extractLsb'_and, rowMask, BitVec.extractLsb'_append_eq_right]
  rw [eq_comm, wordN_eq_iff, hop, hrest, and_ones_eq_zero_iff h, BitVec.extractLsb'_extractLsb'_of_le h]

theorem decodeN_eq_none_iff {i : Instr} {w : Word} : decodeN i w = none ↔ w.extractLsb' 0 56 ≠ 0#56 := by simp [decodeN]

theorem decodeI_eq_none_iff {w : Word} : decodeI w = none ↔ w.extractLsb' 1 55 ≠ 0#55 := by simp [decodeI]

theorem decodeS_eq_none_iff {w : Word} : decodeS w = none ↔ w.extractLsb' 0 8 ≠ 0#8 := by simp [decodeS]

theorem decodeB_eq_none_iff {w : Word} : decodeB w = none ↔ w.extractLsb' 8 48 ≠ 0#48 := by simp [decodeB]

theorem decodeL_eq_none_iff {mk : Handler → Instr} {w : Word} : decodeL mk w = none ↔ w.extractLsb' 16 40 ≠ 0#40 := by
  simp [decodeL]

/-- The byte fields from bn on are 0 (R53 (d)). -/
theorem byteFields_drop_eq_iff {w : Word} {n : Nat} :
    (byteFields w).drop n = List.replicate (6 - n) 0#8 ↔ ∀ k, k < 6 → n ≤ k → w.extractLsb' (40 - 8 * k) 8 = 0#8 := by
  have hfields : byteFields w = (List.range 6).map fun k => w.extractLsb' (40 - 8 * k) 8 := rfl
  simp only [hfields, List.eq_replicate_iff, List.length_drop, List.length_map, List.length_range,
    List.mem_drop_iff_getElem, List.getElem_map, List.getElem_range, exists_prop, forall_exists_index, and_imp,
    forall_apply_eq_imp_iff₂, true_and]
  exact ⟨fun h k hk hn => by simpa [Nat.add_sub_cancel' hn] using h (k - n) (by omega),
    fun h a ha => h (n + a) (by omega) (by omega)⟩

/-- Format A: reserved bits, too many bytes, or an unused byte field that is not 0 (R53 (b) to (d)). -/
theorem decodeA_eq_none_iff {w : Word} :
    decodeA w = none ↔ w.extractLsb' 51 5 ≠ 0#5 ∨ 6 < (w.extractLsb' 48 3).toNat ∨
      ∃ k, k < 6 ∧ (w.extractLsb' 48 3).toNat ≤ k ∧ w.extractLsb' (40 - 8 * k) 8 ≠ 0#8 := by
  simp only [decodeA, ite_eq_right_iff, reduceCtorEq, imp_false, byteFields_drop_eq_iff, not_and_or, not_forall,
    not_le, exists_prop]

/-- The reserved bits of the command's row: the lowest one and how many there are (R50). -/
def Instr.reserved : Instr → Nat × Nat
  | .init _ => (1, 55)
  | .deinit => (0, 56)
  | .send _ _ _ _ => (0, 8)
  | .acceptByte _ => (8, 48)
  | .accept _ => (51, 5)
  | .resetParser => (0, 56)
  | .tick => (0, 56)
  | .addListener _ => (16, 40)
  | .removeListener _ => (16, 40)

theorem Instr.reserved_le (i : Instr) : i.reserved.1 + i.reserved.2 ≤ 56 := by
  cases i <;> simp [Instr.reserved]

/-- Each row of the table is the opcode and the reserved bits of a command. -/
theorem exists_instr_of_row : ∀ row ∈ opcodeTable, ∃ i : Instr,
    (i.opcode ++ 0#56 : BitVec (8 + 56)) = row.pattern ∧ rowMask i.reserved.1 i.reserved.2 = row.mask := by
  simp only [opcodeTable, List.forall_mem_cons]
  exact ⟨⟨.init .master, by decide⟩, ⟨.deinit, by decide⟩, ⟨.send 0 0 0 0, by decide⟩, ⟨.acceptByte 0, by decide⟩,
    ⟨.accept [], by decide⟩, ⟨.resetParser, by decide⟩, ⟨.tick, by decide⟩, ⟨.addListener 0, by decide⟩,
    ⟨.removeListener 0, by decide⟩, List.forall_mem_nil _⟩

/-! ### The illegal words of R53 -/

/-- R53 (c) and (d): an ACCEPT with too many bytes, or with an unused byte field that is not 0. -/
abbrev IllFilledAccept (w : Word) : Prop :=
  opcodeField w = 0x21#8 ∧ (6 < (w.extractLsb' 48 3).toNat ∨
    ∃ k, k < 6 ∧ (w.extractLsb' 48 3).toNat ≤ k ∧ w.extractLsb' (40 - 8 * k) 8 ≠ 0#8)

/-- A word of the command's opcode is illegal by its reserved bits, or as an ACCEPT by its byte fields. -/
theorem formatDecoder_eq_none_iff {i : Instr} {w : Word} (hop : opcodeField w = i.opcode) :
    i.formatDecoder w = none ↔ w.extractLsb' i.reserved.1 i.reserved.2 ≠ 0 ∨ IllFilledAccept w := by
  rw [IllFilledAccept, hop]
  cases i with
  | accept bs => exact decodeA_eq_none_iff.trans (or_congr_right (and_iff_right rfl).symm)
  | _ => simp [Instr.formatDecoder, Instr.reserved, Instr.opcode, decodeN_eq_none_iff, decodeI_eq_none_iff,
      decodeS_eq_none_iff, decodeB_eq_none_iff, decodeL_eq_none_iff]

theorem decode_eq_none_iff_of_row {w : Word} {row : OpcodeRow} (hrow : row ∈ opcodeTable)
    (hop : opcodeField w = opcodeField row.pattern) :
    decode w = none ↔ w &&& row.mask ≠ row.pattern ∨ IllFilledAccept w := by
  obtain ⟨i, hpattern, hmask⟩ := exists_instr_of_row row hrow
  have hi : opcodeField w = i.opcode := hop.trans (wordN_eq_iff.mp hpattern).1
  rw [decode_of_opcodeField_eq hi, formatDecoder_eq_none_iff hi, ← hmask, ← hpattern, ne_eq (_ &&& _),
    and_rowMask_eq_iff i.reserved_le, and_iff_right hi]
  rfl

/-- A word whose opcode is in no row is illegal (R53 (a)). -/
theorem decode_eq_none_of_no_row {w : Word} (h : ∀ row ∈ opcodeTable, opcodeField w ≠ opcodeField row.pattern) :
    decode w = none := by
  cases hd : decode w with
  | none => rfl
  | some i =>
    obtain ⟨row, hrow, hop⟩ := exists_row_of_opcode i
    exact absurd ((opcodeField_of_decode hd).trans hop) (h row hrow)

/-- The cases (a) to (d) of R53. -/
theorem decode_eq_none_iff {w : Word} : decode w = none ↔
    (∀ row ∈ opcodeTable, opcodeField w ≠ opcodeField row.pattern) ∨
    (∃ row ∈ opcodeTable, opcodeField w = opcodeField row.pattern ∧ w &&& row.mask ≠ row.pattern) ∨
    IllFilledAccept w := by
  by_cases hno : ∀ row ∈ opcodeTable, opcodeField w ≠ opcodeField row.pattern
  · exact iff_of_true (decode_eq_none_of_no_row hno) (.inl hno)
  · rw [or_iff_right hno]
    push Not at hno
    obtain ⟨row, hrow, hop⟩ := hno
    have honly : (∃ q ∈ opcodeTable, opcodeField w = opcodeField q.pattern ∧ w &&& q.mask ≠ q.pattern) ↔
        w &&& row.mask ≠ row.pattern := by
      refine ⟨?_, fun h => ⟨row, hrow, hop, h⟩⟩
      rintro ⟨q, hq, hopq, h⟩
      rwa [row_eq_of_opcodeField_eq row hrow q hq (hop.symm.trans hopq)]
    rw [decode_eq_none_iff_of_row hrow hop, honly]

/-- Settles O4: the illegal words by `decode_eq_none_iff`; the step by its illegal-word equation, whose `present` and `putOut` write
no element. -/
theorem illegalWordsAreReportedAndChangeNothing : Obligations.IllegalWordsAreReportedAndChangeNothing := by
  refine ⟨fun w => ?_, fun s c rest hv hp hd => ⟨_, step_of_decode_none hv hp hd, ?_, rfl, rfl⟩, rfl⟩
  · rw [decode_eq_none_iff, IllFilledAccept, and_or_left]
    rfl
  · simp [State.SameElements]

end Sys2Proof
end

section
/-! SUPPORT. What a command puts out: its host interactions (30_encoding.md R56) and its deliveries (R58). -/

namespace Sys2Proof.Machine

@[simp] theorem State.interactions_putOut (s : State) (o : Output) : (s.putOut o).interactions = o.interactions := rfl

@[simp] theorem State.deliveries_putOut (s : State) (o : Output) : (s.putOut o).deliveries = o.deliveries := rfl

/-! ### Interactions -/

@[simp] theorem build_length (q : Request) : (build q).length = 8 := rfl

/-- Only SEND has interactions. -/
theorem Effect.interactions_eq_nil {i : Instr} {s t : State} (h : Effect i s t) (hi : ∀ a f r d, i ≠ .send a f r d) :
    t.interactions = [] := by
  cases h with
  | denied a f r d | busy a f r d | sent a f r d => exact absurd rfl (hi a f r d)
  | _ => rfl

/-- Settles O31: the paths of SEND are the three of R69; every other path has no interaction. -/
theorem claimsArePairedWithReleases : Obligations.ClaimsArePairedWithReleases := by
  intro i s t h
  have hE := effect_of_exec h
  refine ⟨hE.interactions_eq_nil, ?_⟩
  cases hE with
  | denied a f r d s hl hg => exact .inr (.inl ⟨hg, rfl⟩)
  | busy a f r d s hl hg hm => exact .inr (.inr (.inl ⟨hg, rfl⟩))
  | sent a f r d s hl hg hm => exact .inr (.inr (.inr ⟨hg, _, build_length _, rfl⟩))
  | _ => exact .inl rfl

/-! ### The delivery record -/

/-- The header as its fields (R58): each part is its piece of the word. -/
theorem deliveryHeader_fields (h : Handler) (r : Response) :
    h = (deliveryHeader h r).extractLsb' 48 16 ∧ r.addr = (deliveryHeader h r).extractLsb' 40 8 ∧
    r.func = (deliveryHeader h r).extractLsb' 32 8 ∧ r.reg = (deliveryHeader h r).extractLsb' 16 16 ∧
    r.errorCode = (deliveryHeader h r).extractLsb' 8 8 ∧ bit r.isError = (deliveryHeader h r).extractLsb' 7 1 ∧
    bit r.isTimeout = (deliveryHeader h r).extractLsb' 6 1 ∧ bit r.wrongPeer = (deliveryHeader h r).extractLsb' 5 1 ∧
    r.timeoutKind.code = (deliveryHeader h r).extractLsb' 3 2 ∧ 0#3 = (deliveryHeader h r).extractLsb' 0 3 := by
  have hparts := (append_eq_iff _ _ _).mp (deliveryHeader.eq_1 h r).symm
  simp only [append_eq_field_iff, and_assoc] at hparts
  exact hparts

/-- A flag is the one bit of its field. -/
theorem getLsbD_of_bit_eq {w : Word} {n : Nat} {b : Bool} (h : bit b = w.extractLsb' n 1) : w.getLsbD n = b := by
  have hbit := congrArg (BitVec.getLsbD · 0) h
  simpa using hbit.symm

/-- The value 3 is never produced (R78). -/
theorem TimeoutKind.code_ne_three (k : TimeoutKind) : k.code ≠ 3 := by
  cases k <;> decide

/-- Settles O42: the fields of the header, the flags read as bits. -/
theorem deliveryHeaderFields : Obligations.DeliveryHeaderFields := by
  intro h r
  obtain ⟨hh, haddr, hfunc, hreg, herr, hisErr, hisTo, hpeer, hkind, hzero⟩ := deliveryHeader_fields h r
  exact ⟨hh.symm, haddr.symm, hfunc.symm, hreg.symm, herr.symm, getLsbD_of_bit_eq hisErr, getLsbD_of_bit_eq hisTo,
    getLsbD_of_bit_eq hpeer, hkind.symm, hzero.symm, r.timeoutKind.code_ne_three, rfl⟩

/-! ### Payloads -/

theorem slice_length_le (bs : List Byte) (i j : Nat) : (slice bs i j).length ≤ j - i := by
  simp [slice]
  omega

theorem classify_payload_length_le (bs : List Byte) (q : Request) :
    (classify bs (blankResponse q)).payload.length ≤ bs.length - 4 := by
  unfold classify
  split
  · exact Nat.zero_le _
  · have := slice_length_le bs 2 (bs.length - 2)
    simp only
    omega

@[simp] theorem peerCheck_payload (q : Request) (bs : List Byte) (r : Response) : (peerCheck q bs r).payload = r.payload := by
  unfold peerCheck
  split <;> rfl

/-- A payload leaves out two bytes at each end of the frame (43_decode_tick.md R83); a frame that fails a guard has none. -/
theorem decodeResponse_payload_length_le (q : Request) (bs : List Byte) :
    (decodeResponse q bs).payload.length ≤ bs.length - 4 := by
  unfold decodeResponse
  split
  · exact Nat.zero_le _
  split
  · exact Nat.zero_le _
  · rw [peerCheck_payload]
    exact classify_payload_length_le bs q

/-- Every delivery comes from a finalize, which decodes the held bytes (R87, R92). -/
theorem Effect.deliver_of_mem {i : Instr} {s t : State} {d : Delivery} (h : Effect i s t) (hd : d ∈ t.deliveries) :
    ∃ x bs, s.live = true ∧ s.rxBytes = some bs ∧ d = deliver x (decodeResponse s.req bs) := by
  cases h with
  | finalized bs s hl hm hf hq hb =>
    obtain ⟨x, -, rfl⟩ := List.mem_map.mp hd
    exact ⟨x, bs, hl, hb, rfl⟩
  | _ => exact absurd hd List.not_mem_nil

/-- Settles O43: a payload is at least 4 bytes shorter than the held bytes, and these fit the buffer. -/
theorem deliveredPayloadsFit : Obligations.DeliveredPayloadsFit := by
  intro i s t d hs h hd
  obtain ⟨x, bs, hl, hb, rfl⟩ := (effect_of_exec h).deliver_of_mem hd
  have hheld := hs.held_length_le hl hb
  have hpayload := decodeResponse_payload_length_le s.req bs
  have hcap := s.params.rxCap.isLt
  simp only [deliver, BitVec.toNat_ofNat]
  exact ⟨by omega, Nat.mod_eq_of_lt (by omega)⟩

end Sys2Proof.Machine
end

section
/-! SUPPORT. The assembler (30_encoding.md R59, R60): each kind of line as an equation, in range and out of it; and the samples and code
tables of the spec. -/

namespace Sys2Proof.Machine

/-! ### Operands -/

theorem byteOperands_eq (bs : List Nat) :
    byteOperands bs = if ∀ b ∈ bs, b < 256 then some (bs.map (BitVec.ofNat 8)) else none := by
  induction bs with
  | nil => simp [byteOperands]
  | cons b bs ih =>
    rw [byteOperands, ih, byteOperand]
    by_cases hb : b < 256
    · by_cases hbs : ∀ b ∈ bs, b < 256
      · simp [hb, if_pos hbs]
      · simp [hb, if_neg hbs]
    · simp [hb]

/-! ### Lines -/

theorem assembleSend_eq (a f r d : Nat) : assembleSend a f r d =
    if a < 256 ∧ f < 256 ∧ r < 65536 ∧ d < 65536 then
      some [.send (BitVec.ofNat 8 a) (BitVec.ofNat 8 f) (BitVec.ofNat 16 r) (BitVec.ofNat 16 d)]
    else none := by
  split
  · rename_i h
    obtain ⟨ha, hf, hr, hd⟩ := h
    simp only [assembleSend, byteOperand, halfOperand, if_pos ha, if_pos hf, if_pos hr, if_pos hd]
  · rename_i h
    unfold assembleSend
    split
    · rename_i ha hf hr hd
      simp only [byteOperand, halfOperand, Option.ite_none_right_eq_some] at ha hf hr hd
      exact absurd ⟨ha.1, hf.1, hr.1, hd.1⟩ h
    · rfl

theorem assemble_accept_eq (bs : List Nat) : assemble (.accept bs) =
    if bs.length ≤ 6 ∧ ∀ b ∈ bs, b < 256 then some [.accept (bs.map (BitVec.ofNat 8))] else none := by
  rw [assemble, byteOperands_eq, apply_ite (Option.map _), Option.map_some, Option.map_none, ite_and]

/-- ACCEPT_BUF's chunks (R60): the k-th ACCEPT takes the 6 bytes from byte 6k on, or what there is. -/
theorem acceptChunks_eq (bs : List Byte) : acceptChunks bs =
    (List.range ((bs.length + 5) / 6)).map fun k => .accept ((bs.drop (6 * k)).take 6) := by
  induction bs using acceptChunks.induct with
  | case1 b0 b1 b2 b3 b4 b5 rest ih =>
    have hcount : ((b0 :: b1 :: b2 :: b3 :: b4 :: b5 :: rest).length + 5) / 6 = (rest.length + 5) / 6 + 1 := by
      simp only [List.length_cons]
      omega
    rw [acceptChunks, ih, hcount, List.range_succ_eq_map, List.map_cons, List.map_map]
    rfl
  | case2 => rfl
  | case3 bs hlong hnil =>
    have hshort : bs.length < 6 := by
      match bs, hlong with
      | [], _ | [_], _ | [_, _], _ | [_, _, _], _ | [_, _, _, _], _ | [_, _, _, _, _], _ => simp
      | b0 :: b1 :: b2 :: b3 :: b4 :: b5 :: rest, h => exact (h b0 b1 b2 b3 b4 b5 rest rfl).elim
    have hpos : 0 < bs.length := List.length_pos_iff.mpr hnil
    have hcount : (bs.length + 5) / 6 = 1 := by omega
    rw [hcount, acceptChunks]
    · simp [List.take_of_length_le hshort.le]
    all_goals assumption

theorem assemble_acceptBuf_eq (bs : List Nat) : assemble (.acceptBuf bs) =
    if ∀ b ∈ bs, b < 256 then
      some ((List.range ((bs.length + 5) / 6)).map fun k => .accept (((bs.map (BitVec.ofNat 8)).drop (6 * k)).take 6))
    else none := by
  rw [assemble, byteOperands_eq, apply_ite (Option.map _), Option.map_some, acceptChunks_eq, List.length_map, Option.map_none]

theorem assemble_wellFormed {a : Asm} {is : List Instr} (h : assemble a = some is) : ∀ i ∈ is, i.wellFormed = true := by
  cases a with
  | accept bs =>
    rw [assemble_accept_eq, Option.ite_none_right_eq_some, Option.some.injEq] at h
    obtain ⟨⟨hlen, -⟩, rfl⟩ := h
    simpa [Instr.wellFormed] using hlen
  | acceptBuf bs =>
    rw [assemble_acceptBuf_eq, Option.ite_none_right_eq_some, Option.some.injEq] at h
    obtain ⟨-, rfl⟩ := h
    simp [Instr.wellFormed]
  | send a f r d | sendSimple a f r d =>
    rw [assemble, assembleSend_eq, Option.ite_none_right_eq_some, Option.some.injEq] at h
    obtain ⟨-, rfl⟩ := h
    simp [Instr.wellFormed]
  | acceptByte b | addListener b | removeListener b =>
    obtain ⟨x, -, rfl⟩ := Option.map_eq_some_iff.mp h
    simp [Instr.wellFormed]
  | init | deinit | resetParser | tick | advance =>
    cases h
    simp [Instr.wellFormed]

/-- Settles O57: the equations of the lines; the ranges of a single operand are those of `byteOperand` and `halfOperand`. -/
theorem assemblerMakesWellFormedCommands : Obligations.AssemblerMakesWellFormedCommands := by
  refine ⟨fun _ _ => assemble_wellFormed, fun _ => rfl, rfl, rfl, rfl, assembleSend_eq, fun _ _ _ _ => rfl, ?_,
    assemble_accept_eq, ?_, ?_, fun _ => rfl, assemble_acceptBuf_eq⟩
  · exact fun b => apply_ite (Option.map _) _ _ _
  · exact fun h => apply_ite (Option.map _) _ _ _
  · exact fun h => apply_ite (Option.map _) _ _ _

/-! ### The samples of R61 and the tables -/

/-- Settles O1: each sample command is well-formed and encodes to its word, so its word decodes to it (`decode_eq_some_iff`). -/
theorem sampleWordsDecodeAndEncode : Obligations.SampleWordsDecodeAndEncode := by
  intro p hp
  have hsample : p.2.wellFormed = true ∧ encode p.2 = p.1 := by
    revert p
    decide
  exact ⟨decode_eq_some_iff.mpr hsample, hsample.2⟩

/-- Settles O19: the tables, value by value. -/
theorem codesAreThoseOfTheTables : Obligations.CodesAreThoseOfTheTables :=
  ⟨rfl, fun _ _ => rfl, rfl, rfl, rfl⟩

/-- Settles O58: the twelve lines, one after another. -/
theorem sampleLinesAssembleToTheirWords : Obligations.SampleLinesAssembleToTheirWords := by
  unfold Obligations.SampleLinesAssembleToTheirWords
  decide

end Sys2Proof.Machine
end

section
/-! SUPPORT. The CRC-16 checker (40_checksum.md R62 to R66). The guard asks whether a frame ends in the CRC bytes of its body; and no
step of the CRC forgets anything, because the top bit of 0xA001 keeps the bit that is shifted out, so a changed byte changes the CRC. -/

namespace Sys2Proof.Machine

/-! ### The CRC bytes and the guard -/

/-- R64: the two CRC bytes are the two halves of the value, low byte first. -/
theorem crcBytes_eq_iff {c : Half} {lo hi : Byte} : crcBytes c = [lo, hi] ↔ c = (hi ++ lo : BitVec (8 + 8)) := by
  rw [eq_comm (a := c), append_eq_iff, crcBytes, List.cons_eq_cons, List.cons_eq_cons, and_iff_left rfl, and_comm,
    eq_comm (b := hi), eq_comm (b := lo)]

theorem crcBytes_injective : Function.Injective crcBytes :=
  fun _ _ h => (crcBytes_eq_iff.mp h).trans (crcBytes_eq_iff.mp rfl).symm

/-- R65: the guard passes exactly when the trailing two bytes are the CRC bytes of the bytes before them. -/
theorem crcOk_append_iff {body tail : List Byte} (h : tail.length = 2) :
    crcOk (body ++ tail) = true ↔ crcBytes (crc16 body) = tail := by
  obtain ⟨lo, hi, rfl⟩ := List.length_eq_two.mp h
  simp [crcOk, crcBytes_eq_iff]

/-- Settles O33: the trailing bytes are the CRC bytes of the body by construction, and a built frame is of this form (R67). -/
theorem appendedCrcPassesTheGuard : Obligations.AppendedCrcPassesTheGuard :=
  have hpasses : ∀ bs, crcOk (bs ++ crcBytes (crc16 bs)) = true := fun _ => (crcOk_append_iff rfl).mpr rfl
  ⟨hpasses, fun q => hpasses (requestHead q)⟩

/-! ### The CRC forgets nothing -/

/-- One bit step, bit by bit (R62). -/
theorem getLsbD_crcBit (c : Half) (k : Nat) :
    (crcBit c).getLsbD k = (c.getLsbD (k + 1) ^^ (c.getLsbD 0 && (0xA001#16).getLsbD k)) := by
  unfold crcBit
  cases h : c.getLsbD 0 <;> simp [Nat.add_comm]

/-- Bit 15 of the result is the bit that was shifted out; with it, the other bits give back the rest. -/
theorem crcBit_injective : Function.Injective crcBit := by
  intro c d h
  have hbit (k : Nat) := congrArg (BitVec.getLsbD · k) h
  simp only [getLsbD_crcBit] at hbit
  have hzero : c.getLsbD 0 = d.getLsbD 0 := by simpa using hbit 15
  refine BitVec.eq_of_getLsbD_eq fun k _ => ?_
  cases k with
  | zero => exact hzero
  | succ k => simpa only [hzero, Bool.xor_left_inj] using hbit k

theorem crcBits_injective (k : Nat) : Function.Injective (crcBits k) := by
  induction k with
  | zero => exact Function.injective_id
  | succ k ih => exact ih.comp crcBit_injective

theorem crcByte_left_injective (b : Byte) : Function.Injective (crcByte · b) :=
  fun _ _ h => (BitVec.xor_left_inj _).mp (crcBits_injective 8 h)

theorem crcByte_right_injective (c : Half) : Function.Injective (crcByte c) := by
  intro a b h
  have hwide : a.setWidth 16 = b.setWidth 16 := (BitVec.xor_right_inj _).mp (crcBits_injective 8 h)
  simpa using congrArg (BitVec.setWidth 8) hwide

theorem foldl_crcByte_injective (bs : List Byte) : Function.Injective (bs.foldl crcByte) := by
  induction bs with
  | nil => exact Function.injective_id
  | cons b bs ih => exact ih.comp (crcByte_left_injective b)

/-- R62, from any register value: a change in one byte that leaves the CRC changes nothing. -/
theorem set_eq_of_foldl_crcByte_eq {bs : List Byte} {i : Nat} {b : Byte} {c : Half}
    (h : (bs.set i b).foldl crcByte c = bs.foldl crcByte c) : bs.set i b = bs := by
  induction bs generalizing i c with
  | nil => rfl
  | cons a bs ih =>
    cases i with
    | zero => rw [List.set_cons_zero, crcByte_right_injective c (foldl_crcByte_injective bs h)]
    | succ i => rw [List.set_cons_succ, ih h]

/-- R65: two frames that differ in at most one place and both pass the guard are the same frame. A change in the body that keeps the
CRC bytes keeps the CRC; a change in the CRC bytes is ruled out because the body fixes them. -/
theorem set_eq_of_crcOk {bs : List Byte} {i : Nat} {b : Byte} (hlen : 2 ≤ bs.length) (hok : crcOk bs = true)
    (hset : crcOk (bs.set i b) = true) : bs.set i b = bs := by
  obtain ⟨body, tail, htail, rfl⟩ : ∃ body tail, tail.length = 2 ∧ bs = body ++ tail :=
    ⟨_, _, by rw [List.length_drop]; omega, (List.take_append_drop (bs.length - 2) bs).symm⟩
  rw [crcOk_append_iff htail] at hok
  rw [List.set_append] at hset ⊢
  split at hset
  case isTrue hbody =>
    have hcrc := crcBytes_injective (((crcOk_append_iff htail).mp hset).trans hok.symm)
    rw [if_pos hbody, set_eq_of_foldl_crcByte_eq hcrc]
  case isFalse hbody =>
    have htailSet := (crcOk_append_iff (by rw [List.length_set, htail])).mp hset
    rw [if_neg hbody, ← htailSet, hok]

/-- Settles O34: were the changed frame to pass too, it would be the same frame (`set_eq_of_crcOk`). -/
theorem oneByteCorruptionIsDetected : Obligations.OneByteCorruptionIsDetected := by
  intro bs i b hlen hi hne hok
  refine Bool.eq_false_iff.mpr fun hset => hne ?_
  rw [← set_eq_of_crcOk hlen hok hset, List.getElem?_set_self hi]

/-! ### Known values -/

/-- Settles O32: seven runs of `crc16` on literal lists. -/
theorem crcKnownValues : Obligations.CrcKnownValues := by
  unfold Obligations.CrcKnownValues
  decide +kernel

end Sys2Proof.Machine
end

section
/-! SUPPORT. SEND and TICK (41_transmit.md R67 to R71, 43_decode_tick.md R86): the outcomes of SEND, its frame on the wire, and what the
two commands that open and close a window leave unchanged. -/

namespace Sys2Proof.Machine

/-- Settles O29: one path of `Effect` for each clause; the three errors only put out. -/
theorem sendOutcomes : Obligations.SendOutcomes := by
  refine fun a f r d s => ⟨fun hl => ?_, fun hl hg => ?_, fun hl hg hm => ?_, fun hl hg hm => ?_⟩
  · exact ⟨_, exec_of_effect (.notLive _ s hl nofun), s.sameElements_putOut _, rfl⟩
  · exact ⟨_, exec_of_effect (.denied a f r d s hl hg), s.sameElements_putOut _, rfl⟩
  · exact ⟨_, exec_of_effect (.busy a f r d s hl hg hm), s.sameElements_putOut _, rfl⟩
  · have hreq : (s.openWindow ⟨a, f, r, d⟩).holdsValue .req = true := by simp [State.holdsValue, hl]
    exact ⟨_, exec_of_effect (.sent a f r d s hl hg hm), hl, rfl, rfl, hreq, rfl, rfl, rfl, rfl, rfl, rfl, rfl, rfl⟩

/-- Settles O30: each pair of bytes is the two halves of its 16-bit value (`append_eq_iff`), the CRC's with the low half first. -/
theorem requestFrameLayout : Obligations.RequestFrameLayout :=
  fun _ => ⟨_, _, _, _, _, _, rfl, (append_eq_iff _ _ _).mpr ⟨rfl, rfl⟩, (append_eq_iff _ _ _).mpr ⟨rfl, rfl⟩,
    (append_eq_iff _ _ _).mpr ⟨rfl, rfl⟩⟩

/-- Settles O22: of all paths only the successful SEND emits a WRITE. -/
theorem transmissionNeedsIdleAndLeavesWait : Obligations.TransmissionNeedsIdleAndLeavesWait := by
  intro i s t h htransmits
  cases effect_of_exec h with
  | sent a f r d s hl hg hm => exact ⟨hl, hm, hl, rfl, hg⟩
  | _ => exact absurd htransmits Bool.false_ne_true

/-- SEND writes `req` and the window's elements only (R69). -/
theorem Effect.send_frame {a f : Byte} {r d : Half} {s t : State} (h : Effect (.send a f r d) s t) :
    t.live = s.live ∧ t.role = s.role ∧ t.slots = s.slots ∧ t.active = s.active ∧ t.rxBuf = s.rxBuf := by
  cases h <;> exact ⟨rfl, rfl, rfl, rfl, rfl⟩

/-- TICK writes `state`, `rx_len` and `idle_ticks` only (R86, R87). -/
theorem Effect.tick_frame {s t : State} (h : Effect .tick s t) :
    t.live = s.live ∧ t.role = s.role ∧ t.slots = s.slots ∧ t.active = s.active ∧ t.rxBuf = s.rxBuf ∧
      t.req = s.req ∧ t.reqValid = s.reqValid := by
  cases h <;> exact ⟨rfl, rfl, rfl, rfl, rfl, rfl, rfl⟩

/-- Settles O55: the frame of the inputs, which every command has, and those of the two commands. -/
theorem sendAndTickFrame : Obligations.SendAndTickFrame := by
  intro i s t hi h
  have hE := effect_of_exec h
  obtain ⟨hparams, hport, hclaim⟩ := hE.inputs_frame
  obtain ⟨a, f, r, d, rfl⟩ | rfl := hi
  · obtain ⟨hlive, hrole, hslots, hactive, hbuf⟩ := hE.send_frame
    exact ⟨hparams, hlive, hrole, hslots, hactive, hbuf, hport, hclaim, nofun⟩
  · obtain ⟨hlive, hrole, hslots, hactive, hbuf, hreq, hstored⟩ := hE.tick_frame
    exact ⟨hparams, hlive, hrole, hslots, hactive, hbuf, hport, hclaim, fun _ => ⟨hreq, hstored⟩⟩

/-- Settles O48: the TICK leaves the block live and the claim answer as it was, so in IDLE the SEND takes its successful path. -/
theorem finalizedWindowLetsSendSucceed : Obligations.FinalizedWindowLetsSendSucceed := by
  intro s t a f r d _ hl _ hg h hidle
  have hE := effect_of_exec h
  obtain ⟨-, -, hclaim⟩ := hE.inputs_frame
  obtain ⟨hlive, -⟩ := hE.tick_frame
  exact ⟨_, exec_of_effect (.sent a f r d t (hlive.trans hl) (hclaim.trans hg) hidle), rfl, rfl, rfl⟩

end Sys2Proof.Machine
end

section
/-! SUPPORT. Runs of the commands a host presents (00_scope.md R14): the ACCEPTs of a reply (30_encoding.md R60), the TICKs that close a
window (43_decode_tick.md R88), and the whole cycle from a SEND to its delivered reply. -/

namespace Sys2Proof.Machine

theorem State.Inv.params_valid {s : State} (hs : s.Inv) : s.params.valid = true := hs.1.1

/-! ### States with the same elements -/

section
variable {s t : State} (h : s.SameElements t)
include h

theorem State.SameElements.trans {u : State} (h' : t.SameElements u) : s.SameElements u := by
  simp_all only [State.SameElements, and_self]

theorem State.SameElements.rxBytes : t.rxBytes = s.rxBytes := by
  obtain ⟨-, -, -, -, -, -, -, hbuf, hlen, -, -⟩ := h
  simp only [State.rxBytes, hbuf, hlen]

theorem State.SameElements.inv (hs : s.Inv) : t.Inv := by
  obtain ⟨hparams, hlive, -, hmode, hidle, -, hstored, hbuf, hlen, hslots, hactive⟩ := h
  simpa only [State.Inv, State.Shaped, State.LiveInv, hparams, hlive, hmode, hidle, hstored, hbuf, hlen, hslots, hactive]
    using hs

theorem State.SameElements.dispatch (r : Response) : dispatch r t = dispatch r s := by
  obtain ⟨-, -, -, -, -, -, -, -, -, hslots, hactive⟩ := h
  simp only [Machine.dispatch, State.listeners, hslots, hactive]

theorem State.SameElements.closeWindow : s.closeWindow.SameElements t.closeWindow := by
  obtain ⟨hparams, hlive, hrole, -, -, hreq, hstored, hbuf, -, hslots, hactive⟩ := h
  exact ⟨hparams, hlive, hrole, rfl, rfl, hreq, hstored, hbuf, rfl, hslots, hactive⟩

end

/-! ### One presented command -/

@[simp] theorem presented_cons (g : Bool) (i : Instr) (is : List Instr) :
    presented g (i :: is) = ⟨encode i, g⟩ :: presented g is := rfl

@[simp] theorem presented_append (g : Bool) (is js : List Instr) :
    presented g (is ++ js) = presented g is ++ presented g js := List.map_append

/-- The first step of a run takes the first presented command. -/
theorem runSteps_of_effect {s t : State} {g : Bool} {i : Instr} {rest : List HostCommand} (k : Nat)
    (hv : s.params.valid = true) (hwf : i.wellFormed = true) (hp : s.port = ⟨encode i, g⟩ :: rest)
    (h : Effect i (s.present ⟨encode i, g⟩ rest) t) : runSteps (k + 1) s = runSteps k t :=
  runSteps_succ (step_of_effect hv hp (decode_eq_some_iff.mpr ⟨hwf, rfl⟩) h)

/-! ### A presented burst -/

/-- Bytes are taken in whatever the host presents next. -/
theorem acceptBytes_present (bs : List Byte) (s : State) (c : HostCommand) (rest : List HostCommand) :
    acceptBytes bs (s.present c rest) = (acceptBytes bs s).present c rest := by
  induction bs generalizing s with
  | nil => rfl
  | cons b bs ih =>
    have hone : acceptOne b (s.present c rest) = (acceptOne b s).present c rest := by
      simp only [acceptOne, apply_ite (State.present c rest)]
      rfl
    rw [acceptBytes_cons, acceptBytes_cons, hone, ih]

theorem acceptBytes_idleTicks_eq_zero {bs : List Byte} {s : State} (h : s.idleTicks = 0) :
    (acceptBytes bs s).idleTicks = 0 := by
  induction bs generalizing s with
  | nil => exact h
  | cons b bs ih =>
    refine ih ?_
    obtain ⟨-, -, e⟩ | ⟨-, -, e⟩ | ⟨-, -, e⟩ := acceptOne_cases b s <;> simp [e, h]

/-- A first step that takes in a burst: the bytes of later bursts follow those of this one. -/
theorem runSteps_burst {bs : List Byte} {s : State} {g : Bool} {rest : List HostCommand} (hv : s.params.valid = true)
    (hl : s.live = true) (hlen : bs.length ≤ 6) (hp : s.port = ⟨encode (.accept bs), g⟩ :: rest) :
    ∃ u, (∀ k, runSteps (k + 1) s = runSteps k u) ∧ u.port = rest ∧ u.params = s.params ∧ u.live = s.live ∧
      ∀ more, (acceptBytes (bs ++ more) s).SameElements (acceptBytes more u) := by
  have hwf : (Instr.accept bs).wellFormed = true := decide_eq_true hlen
  have hE := Effect.burst bs (s.present ⟨encode (.accept bs), g⟩ rest) hl
  rw [acceptBytes_present] at hE
  obtain ⟨hparams, hlive, -⟩ := acceptBytes_frame bs s
  refine ⟨_, fun k => runSteps_of_effect k hv hwf hp hE, rfl, hparams, hlive, fun more => ?_⟩
  rw [acceptBytes_putOut, acceptBytes_present, ← acceptBytes_append]
  exact State.sameElements_putOut _ _

/-- A run of the ACCEPTs of ACCEPT_BUF ends as one burst does (R60, R74). -/
theorem runSteps_acceptChunks {bs : List Byte} {s : State} {g : Bool} {rest : List HostCommand}
    (hv : s.params.valid = true) (hl : s.live = true) (hp : s.port = presented g (acceptChunks bs) ++ rest) :
    ∃ t, runSteps (acceptChunks bs).length s = some t ∧ t.port = rest ∧ (acceptBytes bs s).SameElements t := by
  induction bs using acceptChunks.induct generalizing s with
  | case1 b0 b1 b2 b3 b4 b5 more ih =>
    obtain ⟨u, hstep, hport, hparams, hlive, hburst⟩ := runSteps_burst hv hl le_rfl hp
    obtain ⟨t, hrun, hrest, hsame⟩ := ih (hparams ▸ hv) (hlive.trans hl) hport
    exact ⟨t, (hstep _).trans hrun, hrest, (hburst more).trans hsame⟩
  | case2 => exact ⟨s, rfl, hp, s.sameElements_refl⟩
  | case3 bs hlong hnil =>
    have hchunks : acceptChunks bs = [.accept bs] := acceptChunks.eq_3 bs hlong hnil
    have hlen : bs.length ≤ 6 := by
      match bs, hlong with
      | b0 :: b1 :: b2 :: b3 :: b4 :: b5 :: more, hlong => exact absurd rfl (hlong b0 b1 b2 b3 b4 b5 more)
      | [], _ | [_], _ | [_, _], _ | [_, _, _], _ | [_, _, _, _], _ | [_, _, _, _, _], _ => simp
    rw [hchunks] at hp ⊢
    obtain ⟨u, hstep, hport, -, -, hburst⟩ := runSteps_burst hv hl hlen hp
    have hsame := hburst []
    rw [List.append_nil, acceptBytes_nil] at hsame
    exact ⟨u, hstep 0, hport, hsame⟩

/-! ### The TICKs of a window -/

/-- The threshold in TICKs (R86, R88): a TICK finalizes when it is the k-th or a later one. -/
theorem State.finalizes_iff (s : State) : s.Finalizes ↔ windowTicks s.params ≤ s.idleTicks.toNat + 1 := by
  unfold State.Finalizes windowTicks
  cases s.params.tickFinalize with
  | elseBranch => simp
  | sameTick =>
    simp only [true_and]
    omega

/-- A window takes at least one TICK to close. -/
theorem windowTicks_pos (p : Params) : 0 < windowTicks p := by
  unfold windowTicks
  split <;> omega

/-- Below the threshold the counter does not wrap (10_state.md R20). -/
theorem State.idleTicks_lt_of_not_finalizes {s : State} (h : ¬ s.Finalizes) : s.idleTicks < s.params.timeoutTicks :=
  BitVec.lt_def.mpr (Nat.lt_of_not_le fun hle => h (.inl hle))

/-- Every occupied slot lies below `active`, so a dispatch reaches each (44_registry.md R92). -/
theorem State.Inv.dispatch_eq {s : State} (hs : s.Inv) (hl : s.live = true) (r : Response) :
    dispatch r s = (s.slots.filter (· ≠ 0)).map fun h => deliver h r := by
  obtain ⟨-, -, -, -, hempty⟩ := hs.2 hl
  rw [dispatch, State.listeners_eq_filter hempty]

section
variable {s : State} {g : Bool} {rest : List HostCommand} (hs : s.Inv) (hl : s.live = true) (hm : s.mode = .wait)
include hs hl hm

/-- Below the threshold each TICK of a run only counts. -/
theorem runSteps_ticks_open {n : Nat} (hn : s.idleTicks.toNat + n < windowTicks s.params)
    (hp : s.port = presented g (List.replicate n .tick) ++ rest) :
    ∃ t, runSteps n s = some t ∧ t.port = rest ∧ t.idleTicks.toNat = s.idleTicks.toNat + n ∧
      (0 < n → t.deliveries = []) ∧ s.SameElements { t with idleTicks := s.idleTicks } := by
  induction n generalizing rest with
  | zero => exact ⟨s, rfl, hp, rfl, nofun, s.sameElements_refl⟩
  | succ n ih =>
    rw [List.replicate_succ', presented_append, List.append_assoc] at hp
    obtain ⟨u, hrun, hport, hcount, -, hsame⟩ := ih (by omega) hp
    obtain ⟨hparams, hlive, -, hmode, -⟩ := id hsame
    have hopen : ¬ u.Finalizes := by
      rw [State.finalizes_iff, hparams, hcount]
      omega
    have hv : u.params.valid = true := hparams ▸ hs.params_valid
    rw [runSteps_add hrun, runSteps_of_effect 0 hv rfl hport (.counted _ (hlive.trans hl) (hmode.trans hm) hopen)]
    refine ⟨_, rfl, rfl, ?_, fun _ => rfl, hsame⟩
    exact (toNat_add_one (State.idleTicks_lt_of_not_finalizes hopen)).trans (by rw [hcount, Nat.add_assoc])

/-- R88: from a zero counter the k-th TICK closes the window and delivers the decode of the held bytes. -/
theorem runSteps_window {bs : List Byte} (hb : s.rxBytes = some bs) (hidle : s.idleTicks = 0)
    (hp : s.port = presented g (List.replicate (windowTicks s.params) .tick) ++ rest) :
    ∃ t, runSteps (windowTicks s.params) s = some t ∧ t.port = rest ∧ s.closeWindow.SameElements t ∧
      t.out = some ⟨.ok, [], (s.slots.filter (· ≠ 0)).map fun h => deliver h (decodeResponse s.req bs)⟩ := by
  obtain ⟨n, hn⟩ : ∃ n, windowTicks s.params = n + 1 := Nat.exists_eq_add_one.mpr (windowTicks_pos s.params)
  have hzero : s.idleTicks.toNat = 0 := by rw [hidle]; rfl
  rw [hn, List.replicate_succ', presented_append, List.append_assoc] at hp
  obtain ⟨u, hrun, hport, hcount, -, hsame⟩ := runSteps_ticks_open hs hl hm (by omega) hp
  have hbytes : u.rxBytes = some bs := hsame.rxBytes.trans hb
  obtain ⟨hparams, hlive, -, hmode, -, hreq, hstored, -⟩ := id hsame
  have hclosed : u.Finalizes := by
    rw [State.finalizes_iff, hparams, hcount]
    omega
  obtain ⟨hwaitStored, -⟩ := hs.2 hl
  have hq : u.reqValid = true := hstored.trans (hwaitStored hm)
  have hv : u.params.valid = true := hparams ▸ hs.params_valid
  rw [hn, runSteps_add hrun, runSteps_of_effect 0 hv rfl hport
    (.finalized bs _ (hlive.trans hl) (hmode.trans hm) hclosed hq hbytes), ← hs.dispatch_eq hl, ← hsame.dispatch, ← hreq]
  exact ⟨_, rfl, rfl, hsame.closeWindow, rfl⟩

end

/-! ### The whole cycle -/

/-- A reply and then silence, from an open window that holds no byte yet: the decode of the first RX_CAP bytes is delivered. -/
theorem runSteps_reply {s : State} {g : Bool} {bs : List Byte} {rest : List HostCommand} (hs : s.Inv) (hl : s.live = true)
    (hm : s.mode = .wait) (hlen : s.rxLen = 0) (hidle : s.idleTicks = 0)
    (hp : s.port = presented g (acceptChunks bs) ++ (presented g (List.replicate (windowTicks s.params) .tick) ++ rest)) :
    ∃ t, runSteps ((acceptChunks bs).length + windowTicks s.params) s = some t ∧ t.port = rest ∧
      (acceptBytes bs s).closeWindow.SameElements t ∧
      t.out = some ⟨.ok, [], (s.slots.filter (· ≠ 0)).map fun h =>
        deliver h (decodeResponse s.req (bs.take s.params.rxCap.toNat))⟩ := by
  obtain ⟨u, hburst, hport, hsame⟩ := runSteps_acceptChunks hs.params_valid hl hp
  have hempty : s.rxBytes = some [] := rxBytes_eq_some.mpr (by simp [hlen])
  obtain ⟨hbytes, -⟩ := rxBytes_acceptBytes (bs := bs) hs hl (.inl hm) hempty
  obtain ⟨hparams, hlive, -, hmode, hreq, -, hslots, -⟩ := acceptBytes_frame bs s
  obtain ⟨huparams, hulive, -, humode, huidle, hureq, -, -, -, huslots, -⟩ := id hsame
  rw [← hparams, ← huparams] at hport
  obtain ⟨t, hwindow, hrest, hclosed, hout⟩ := runSteps_window (hsame.inv (hs.acceptBytes bs))
    (hulive.trans (hlive.trans hl)) (humode.trans (hmode.trans hm)) (hsame.rxBytes.trans hbytes)
    (huidle.trans (acceptBytes_idleTicks_eq_zero hidle)) hport
  rw [huparams, hparams] at hwindow
  rw [huslots, hslots, hureq, hreq, List.nil_append] at hout
  exact ⟨t, (runSteps_add hburst).trans hwindow, hrest, hsame.closeWindow.trans hclosed, hout⟩

/-- Settles O49: the SEND opens a window that holds no byte; what follows is a reply and then silence. -/
theorem requestIsAnsweredByItsDecodedReply : Obligations.RequestIsAnsweredByItsDecodedReply := by
  intro s a f r d bs rest hs hl hidle hp
  rw [List.cons_append, presented_cons, presented_append, List.cons_append, List.append_assoc] at hp
  have hsent := Effect.sent a f r d (s.present ⟨encode (.send a f r d), true⟩
    (presented true (acceptChunks bs) ++ (presented true (List.replicate (windowTicks s.params) .tick) ++ rest))) hl rfl hidle
  obtain ⟨t, hrun, hport, hclosed, hout⟩ := runSteps_reply (hsent.inv (hs.present _ _)) hl rfl rfl rfl rfl
  obtain ⟨-, hlive, -, hmode, hcount, hreq, -, -, hlen, hslots, -⟩ := hclosed
  rw [Nat.add_assoc, Nat.add_comm, runSteps_of_effect _ hs.params_valid rfl hp hsent]
  obtain ⟨-, hblive, -, -, hbreq, -, hbslots, -⟩ := acceptBytes_frame bs _
  exact ⟨t, hrun, hport, hlive.trans (hblive.trans hl), hmode, hlen, hcount, hreq.trans hbreq, hslots.trans hbslots, hout⟩

end Sys2Proof.Machine
end

section
/-! SUPPORT. The receive assembler (42_receive.md R73 to R75): what one inbound byte and a burst of them do to the receive buffer,
and what the receive commands leave unchanged. -/

namespace Sys2Proof.Machine

/-! ### One inbound byte -/

section
variable {s : State} {b : Byte}

/-- In IDLE under DROP the byte is ignored (00_scope.md R11). -/
theorem acceptOne_of_dropping (hm : s.mode = .idle) (hd : s.params.acceptInIdle = .drop) : acceptOne b s = s :=
  if_pos ⟨hm, hd⟩

/-- In WAIT, and in IDLE under APPEND, bytes are taken in. -/
theorem not_dropping (h : s.mode = .wait ∨ s.params.acceptInIdle = .append) :
    ¬ (s.mode = .idle ∧ s.params.acceptInIdle = .drop) := by
  rintro ⟨hm, hd⟩
  rcases h with h | h
  · exact nomatch h.symm.trans hm
  · exact nomatch h.symm.trans hd

theorem acceptOne_of_room (h : s.mode = .wait ∨ s.params.acceptInIdle = .append) (hroom : s.rxLen < s.params.rxCap) :
    acceptOne b s = s.breakSilence.rxAppend b := by
  rw [acceptOne, if_neg (not_dropping h), if_pos hroom]

theorem acceptOne_of_full (h : s.mode = .wait ∨ s.params.acceptInIdle = .append) (hfull : ¬ s.rxLen < s.params.rxCap) :
    acceptOne b s = s.breakSilence := by
  rw [acceptOne, if_neg (not_dropping h), if_neg hfull]

/-- In any state a byte raises `rx_len` by at most one: below capacity the increment does not wrap. -/
theorem acceptOne_rxLen_bounds (b : Byte) (s : State) :
    s.rxLen.toNat ≤ (acceptOne b s).rxLen.toNat ∧ (acceptOne b s).rxLen.toNat ≤ s.rxLen.toNat + 1 := by
  obtain ⟨-, -, e⟩ | ⟨-, hlt, e⟩ | ⟨-, -, e⟩ := acceptOne_cases b s
  · simp [e]
  · rw [e, State.rxAppend_rxLen, State.breakSilence_rxLen, toNat_add_one hlt]
    omega
  · simp [e]

theorem acceptOne_rxBuf_getElem? (b : Byte) {j : Nat} (hj : j ≠ s.rxLen.toNat) :
    (acceptOne b s).rxBuf[j]? = s.rxBuf[j]? := by
  obtain ⟨-, -, e⟩ | ⟨-, -, e⟩ | ⟨-, -, e⟩ := acceptOne_cases b s <;> simp [e, List.getElem?_set_ne hj.symm]

/-- Settles O35: the byte is ignored, appended or dropped (`acceptOne_of_dropping`, `acceptOne_of_room`, `acceptOne_of_full`). -/
theorem acceptByteAppendsOrDrops : Obligations.AcceptByteAppendsOrDrops := by
  refine fun b s => ⟨fun hl => ?_, fun hl hm hd => ?_, fun hs hl hm => ?_⟩
  · exact ⟨_, exec_of_effect (.notLive _ s hl nofun), s.sameElements_putOut _, rfl⟩
  · refine ⟨_, exec_of_effect (.byte b s hl), ?_, rfl⟩
    rw [acceptOne_of_dropping hm hd]
    exact s.sameElements_putOut _
  · refine ⟨_, exec_of_effect (.byte b s hl), rfl, ?_⟩
    obtain ⟨⟨-, hbuf, -⟩, -⟩ := hs
    by_cases hroom : s.rxLen < s.params.rxCap
    · have hlt := BitVec.lt_def.mp hroom
      rw [acceptOne_of_room hm hroom]
      refine ⟨rfl, fun _ => ⟨toNat_add_one hroom, ?_, fun j hj => ?_⟩, fun hcap => absurd hcap hlt.ne, hl, rfl, rfl, rfl,
        rfl, rfl, rfl, rfl⟩
      · exact List.getElem?_set_self (hlt.trans_eq hbuf.symm)
      · exact List.getElem?_set_ne hj.symm
    · rw [acceptOne_of_full hm hroom]
      exact ⟨rfl, fun hlt => absurd (BitVec.lt_def.mpr hlt) hroom, fun _ => ⟨rfl, rfl⟩, hl, rfl, rfl, rfl, rfl, rfl, rfl, rfl⟩

end

/-! ### A burst -/

/-- The ACCEPT_BYTEs of a burst end in the elements in which the burst ends; at most what was put out differs. -/
theorem execAll_acceptBytes {s : State} (hl : s.live = true) (bs : List Byte) :
    ∃ u, execAll (bs.map .acceptByte) s = .next u ∧ u.SameElements (acceptBytes bs s) := by
  induction bs generalizing s with
  | nil => exact ⟨s, rfl, s.sameElements_refl⟩
  | cons b bs ih =>
    have hl' : ((acceptOne b s).putOut ⟨.ok, [], []⟩).live = true := (acceptOne_live b s).trans hl
    obtain ⟨u, hrun, hsame⟩ := ih hl'
    rw [acceptBytes_putOut] at hsame
    rw [List.map_cons, execAll_cons_of_effect (.byte b s hl)]
    exact ⟨u, hrun, hsame⟩

/-- Settles O36: `execAll_acceptBytes` beside the burst of ACCEPT; with no byte the command only puts out. -/
theorem acceptEqualsItsBytesOneByOne : Obligations.AcceptEqualsItsBytesOneByOne := by
  refine fun bs s => ⟨fun hl => ?_, fun hl => ?_⟩
  · exact ⟨_, exec_of_effect (.notLive _ s hl nofun), s.sameElements_putOut _, rfl⟩
  · obtain ⟨u, hrun, hsame⟩ := execAll_acceptBytes hl bs
    refine ⟨_, u, exec_of_effect (.burst bs s hl), hrun, hsame.trans (State.sameElements_putOut _ _), rfl, ?_⟩
    rintro rfl
    exact s.sameElements_putOut _

/-- A burst of n bytes takes at most the n places from `rx_len` on. -/
theorem acceptBytes_rxBuf_getElem? {bs : List Byte} {s : State} {j : Nat}
    (hj : j < s.rxLen.toNat ∨ s.rxLen.toNat + bs.length ≤ j) : (acceptBytes bs s).rxBuf[j]? = s.rxBuf[j]? := by
  induction bs generalizing s with
  | nil => rfl
  | cons b bs ih =>
    obtain ⟨hle, hge⟩ := acceptOne_rxLen_bounds b s
    rw [List.length_cons] at hj
    rw [acceptBytes_cons, ih (by omega), acceptOne_rxBuf_getElem? b (by omega)]

/-! ### The receive commands -/

/-- Whatever path a receive command takes: nothing, a burst of its bytes, or a cleared parser. -/
theorem Effect.receive_cases {i : Instr} {bs : List Byte} {s t : State}
    (hi : (∃ b, i = .acceptByte b ∧ bs = [b]) ∨ i = .accept bs ∨ (i = .resetParser ∧ bs = [])) (h : Effect i s t) :
    ∃ o, t = s.putOut o ∨ t = (acceptBytes bs s).putOut o ∨ t = s.clearParser.putOut o := by
  obtain ⟨b, rfl, rfl⟩ | rfl | ⟨rfl, rfl⟩ := hi
  · cases h with
    | notLive i s hl hi => exact ⟨_, .inl rfl⟩
    | byte b s hl => exact ⟨_, .inr (.inl rfl)⟩
  · cases h with
    | notLive i s hl hi => exact ⟨_, .inl rfl⟩
    | burst bs s hl => exact ⟨_, .inr (.inl rfl)⟩
  · cases h with
    | notLive i s hl hi => exact ⟨_, .inl rfl⟩
    | cleared s hl => exact ⟨_, .inr (.inr rfl)⟩

/-- Settles O54: of the three things a receive command can do, only the burst touches the buffer. -/
theorem receiveCommandsFrame : Obligations.ReceiveCommandsFrame := by
  intro i bs s t hi h
  obtain ⟨o, rfl | rfl | rfl⟩ := (effect_of_exec h).receive_cases hi
  · exact ⟨rfl, rfl, rfl, rfl, rfl, rfl, rfl, rfl, rfl, rfl, rfl, fun _ _ => rfl⟩
  · obtain ⟨hparams, hlive, hrole, hmode, hreq, hstored, hslots, hactive, hport, hclaim, -, hlength⟩ := acceptBytes_frame bs s
    exact ⟨hparams, hlive, hrole, hmode, hreq, hstored, hslots, hactive, hport, hclaim, hlength,
      fun _ hj => acceptBytes_rxBuf_getElem? hj⟩
  · exact ⟨rfl, rfl, rfl, rfl, rfl, rfl, rfl, rfl, rfl, rfl, rfl, fun _ _ => rfl⟩

/-- Settles O38: the path of `Effect` that is `State.clearParser`, and the one that only reports. -/
theorem resetParserKeepsTheWindow : Obligations.ResetParserKeepsTheWindow := by
  refine fun s => ⟨fun hl => ?_, fun hl => ?_⟩
  · exact ⟨_, exec_of_effect (.cleared s hl), rfl, rfl, rfl, rfl, hl, rfl, rfl, rfl, rfl, rfl, rfl, rfl⟩
  · exact ⟨_, exec_of_effect (.notLive _ s hl nofun), s.sameElements_putOut _, rfl⟩

end Sys2Proof.Machine
end

section
/-! SUPPORT. ACCEPT_IN_IDLE is unobservable (42_receive.md R77). A state that differs in no more than R77 allows is the same state but
for that parameter and what the receiver holds, and while a window is open the receiver holds the same; each path of each command
has its counterpart there, and so has each run from power-on. -/

namespace Sys2Proof.Machine

/-! ### Another receiver -/

/-- The state with this ACCEPT_IN_IDLE and this in `rx_buf`, `rx_len` and `idle_ticks`. -/
def State.withReceiver (a : AcceptInIdle) (buf : List Byte) (len ticks : Half) (s : State) : State :=
  { s with params := { s.params with acceptInIdle := a }, rxBuf := buf, rxLen := len, idleTicks := ticks }

/-- While a window is open both receivers hold the same bytes and have counted the same TICKs: the last part of `SameButInIdle`. -/
def State.SameWindow (s t : State) : Prop :=
  s.live = true → s.mode = .wait → t.rxBytes = s.rxBytes ∧ t.rxLen = s.rxLen ∧ t.idleTicks = s.idleTicks

theorem State.SameButInIdle.sameWindow {s t : State} (h : s.SameButInIdle t) : s.SameWindow t := by
  obtain ⟨-, -, -, -, -, -, -, -, -, -, -, -, -, -, -, hwindow⟩ := h
  exact hwindow

theorem State.SameButInIdle.eq_withReceiver {s t : State} (h : s.SameButInIdle t) :
    t = s.withReceiver t.params.acceptInIdle t.rxBuf t.rxLen t.idleTicks := by
  obtain ⟨hcap, hslots, htimeout, hsize, hends, hport, hclaim, hout, hlive, hrole, hmode, hreq, hstored, htable, hactive, -⟩ :=
    h
  simp only [State.withReceiver, ← hcap, ← hslots, ← htimeout, ← hsize, ← hends, ← hport, ← hclaim, ← hout, ← hlive, ← hrole,
    ← hmode, ← hreq, ← hstored, ← htable, ← hactive]

theorem State.SameButInIdle.putOut {s t : State} (h : s.SameButInIdle t) (o : Output) :
    (s.putOut o).SameButInIdle (t.putOut o) := by
  obtain ⟨hcap, hslots, htimeout, hsize, hends, hport, hclaim, -, hrest⟩ := h
  exact ⟨hcap, hslots, htimeout, hsize, hends, hport, hclaim, rfl, hrest⟩

theorem State.SameButInIdle.present {s t : State} (h : s.SameButInIdle t) (c : HostCommand) (rest : List HostCommand) :
    (s.present c rest).SameButInIdle (t.present c rest) := by
  obtain ⟨hcap, hslots, htimeout, hsize, hends, -, -, hrest⟩ := h
  exact ⟨hcap, hslots, htimeout, hsize, hends, rfl, rfl, hrest⟩

section
variable {s : State} {a : AcceptInIdle} {buf : List Byte} {len ticks : Half}

theorem State.SameWindow.sameButInIdle (h : s.SameWindow (s.withReceiver a buf len ticks)) :
    s.SameButInIdle (s.withReceiver a buf len ticks) :=
  ⟨rfl, rfl, rfl, rfl, rfl, rfl, rfl, rfl, rfl, rfl, rfl, rfl, rfl, rfl, rfl, h⟩

theorem State.rxBytes_of_rxLen_eq_zero (h : s.rxLen = 0) : s.rxBytes = some [] :=
  rxBytes_eq_some.mpr (by simp [h])

theorem State.SameWindow.of_empty {t : State} (hs : s.rxLen = 0) (ht : t.rxLen = 0) (hticks : t.idleTicks = s.idleTicks) :
    s.SameWindow t :=
  fun _ _ => ⟨(State.rxBytes_of_rxLen_eq_zero ht).trans (State.rxBytes_of_rxLen_eq_zero hs).symm, ht.trans hs.symm, hticks⟩

/-! ### A burst into another receiver -/

/-- A burst writes only what another receiver replaces. -/
theorem withReceiver_acceptBytes (bs : List Byte) (s : State) :
    (acceptBytes bs s).withReceiver a buf len ticks = s.withReceiver a buf len ticks := by
  induction bs generalizing s with
  | nil => rfl
  | cons b bs ih =>
    rw [acceptBytes_cons, ih]
    obtain ⟨-, -, e⟩ | ⟨-, -, e⟩ | ⟨-, -, e⟩ := acceptOne_cases b s <;> rw [e] <;> rfl

theorem State.withReceiver_self (s : State) :
    s.withReceiver s.params.acceptInIdle s.rxBuf s.rxLen s.idleTicks = s := rfl

/-- A burst into another receiver ends as the burst does, with some receiver. -/
theorem exists_acceptBytes_withReceiver (bs : List Byte) :
    ∃ a' buf' len' ticks',
      acceptBytes bs (s.withReceiver a buf len ticks) = (acceptBytes bs s).withReceiver a' buf' len' ticks' :=
  ⟨_, _, _, _, (State.withReceiver_self _).symm.trans
    ((withReceiver_acceptBytes bs _).trans (withReceiver_acceptBytes bs s).symm)⟩

section
variable (hs : s.Inv) (ht : (s.withReceiver a buf len ticks).Inv) (h : s.SameWindow (s.withReceiver a buf len ticks))
include hs ht h

/-- In WAIT both receivers take in the same bytes behind the same held ones, and none breaks the silence alone (R73). -/
theorem State.SameWindow.acceptBytes (bs : List Byte) :
    (acceptBytes bs s).SameWindow (acceptBytes bs (s.withReceiver a buf len ticks)) := by
  intro hl hm
  obtain ⟨-, hlive, -, hmode, -⟩ := acceptBytes_frame bs s
  rw [hlive] at hl
  rw [hmode] at hm
  obtain ⟨hbytes, hlen, hticks⟩ := h hl hm
  obtain ⟨⟨-, hshape, -⟩, hinv⟩ := id hs
  obtain ⟨-, hle, -⟩ := hinv hl
  have hheld := State.rxBytes_of_shape hshape hle
  obtain rfl | hbs := eq_or_ne bs []
  · exact ⟨hbytes, hlen, hticks⟩
  · obtain ⟨hsBytes, hsIdle⟩ := rxBytes_acceptBytes (bs := bs) hs hl (.inl hm) hheld
    obtain ⟨htBytes, htIdle⟩ := rxBytes_acceptBytes (bs := bs) ht hl (.inl hm) (hbytes.trans hheld)
    refine ⟨htBytes.trans hsBytes.symm, BitVec.eq_of_toNat_eq ?_, (htIdle hbs).trans (hsIdle hbs).symm⟩
    exact (State.rxBytes_length htBytes).symm.trans (State.rxBytes_length hsBytes)

theorem acceptBytes_sameButInIdle (bs : List Byte) :
    (acceptBytes bs s).SameButInIdle (acceptBytes bs (s.withReceiver a buf len ticks)) := by
  have hwindow := h.acceptBytes hs ht bs
  obtain ⟨a', buf', len', ticks', e⟩ := exists_acceptBytes_withReceiver (s := s) (a := a) (buf := buf) (len := len)
    (ticks := ticks) bs
  rw [e] at hwindow ⊢
  exact hwindow.sameButInIdle

/-! ### Commands -/

/-- Of the guards of `Effect` only those of a TICK in WAIT read the receiver, and there it holds the same. -/
theorem Effect.withReceiver {i : Instr} {s' : State} (hE : Effect i s s') :
    ∃ t', Effect i (s.withReceiver a buf len ticks) t' ∧ s'.SameButInIdle t' := by
  have hv := h.sameButInIdle
  cases hE with
  | created r s hl =>
    have hcreate : (s.create r).SameWindow ((s.create r).withReceiver a buf 0 0) := fun _ hm => nomatch hm
    exact ⟨_, .created r (s.withReceiver a buf len ticks) hl, hcreate.sameButInIdle.putOut _⟩
  | alreadyLive r s hl => exact ⟨_, .alreadyLive r (s.withReceiver a buf len ticks) hl, hv.putOut _⟩
  | notLive i s hl hi => exact ⟨_, .notLive i (s.withReceiver a buf len ticks) hl hi, hv.putOut _⟩
  | destroyed s hl =>
    have hdestroy : s.destroy.SameWindow (s.destroy.withReceiver a s.destroy.rxBuf 0 0) := fun hl => nomatch hl
    exact ⟨_, .destroyed (s.withReceiver a buf len ticks) hl, hdestroy.sameButInIdle.putOut _⟩
  | denied x f r d s hl hg => exact ⟨_, .denied x f r d (s.withReceiver a buf len ticks) hl hg, hv.putOut _⟩
  | busy x f r d s hl hg hm => exact ⟨_, .busy x f r d (s.withReceiver a buf len ticks) hl hg hm, hv.putOut _⟩
  | sent x f r d s hl hg hm =>
    have hopen : (s.openWindow ⟨x, f, r, d⟩).SameWindow ((s.openWindow ⟨x, f, r, d⟩).withReceiver a buf 0 0) :=
      .of_empty rfl rfl rfl
    exact ⟨_, .sent x f r d (s.withReceiver a buf len ticks) hl hg hm, hopen.sameButInIdle.putOut _⟩
  | byte b s hl =>
    exact ⟨_, .byte b (s.withReceiver a buf len ticks) hl, (acceptBytes_sameButInIdle hs ht h [b]).putOut _⟩
  | burst bs s hl =>
    exact ⟨_, .burst bs (s.withReceiver a buf len ticks) hl, (acceptBytes_sameButInIdle hs ht h bs).putOut _⟩
  | cleared s hl =>
    have hclear : s.clearParser.SameWindow (s.clearParser.withReceiver a buf 0 0) := .of_empty rfl rfl rfl
    exact ⟨_, .cleared (s.withReceiver a buf len ticks) hl, hclear.sameButInIdle.putOut _⟩
  | idleTick s hl hm => exact ⟨_, .idleTick (s.withReceiver a buf len ticks) hl hm, hv.putOut _⟩
  | counted s hl hm hf =>
    obtain ⟨hbytes, rfl, rfl⟩ := h hl hm
    have hcount : s.countTick.SameWindow (s.countTick.withReceiver a buf s.rxLen (s.idleTicks + 1)) :=
      fun _ _ => ⟨hbytes, rfl, rfl⟩
    exact ⟨_, .counted (s.withReceiver a buf s.rxLen s.idleTicks) hl hm hf, hcount.sameButInIdle.putOut _⟩
  | finalized bs s hl hm hf hq hb =>
    obtain ⟨hbytes, rfl, rfl⟩ := h hl hm
    have hclose : s.closeWindow.SameWindow (s.closeWindow.withReceiver a buf 0 0) := fun _ hm => nomatch hm
    exact ⟨_, .finalized bs (s.withReceiver a buf s.rxLen s.idleTicks) hl hm hf hq (hbytes.trans hb),
      hclose.sameButInIdle.putOut _⟩
  | addedNull s hl => exact ⟨_, .addedNull (s.withReceiver a buf len ticks) hl, hv.putOut _⟩
  | tableFull x s hl hx he => exact ⟨_, .tableFull x (s.withReceiver a buf len ticks) hl hx he, hv.putOut _⟩
  | added x i s hl hx he =>
    have hfill : (s.fillSlot i x).SameWindow ((s.fillSlot i x).withReceiver a buf len ticks) := h
    exact ⟨_, .added x i (s.withReceiver a buf len ticks) hl hx he, hfill.sameButInIdle.putOut _⟩
  | removedNull s hl => exact ⟨_, .removedNull (s.withReceiver a buf len ticks) hl, hv.putOut _⟩
  | notFound x s hl hx he => exact ⟨_, .notFound x (s.withReceiver a buf len ticks) hl hx he, hv.putOut _⟩
  | removed x i s hl hx he =>
    have hclear : (s.clearSlot i).SameWindow ((s.clearSlot i).withReceiver a buf len ticks) := h
    exact ⟨_, .removed x i (s.withReceiver a buf len ticks) hl hx he, hclear.sameButInIdle.putOut _⟩

end

end

section
variable {s t : State} (hs : s.Inv) (ht : t.Inv) (h : s.SameButInIdle t)
include hs ht h

theorem exec_sameButInIdle_agrees (i : Instr) : outcomesAgree State.SameButInIdle (exec i s) (exec i t) := by
  have hwindow := h.sameWindow
  rw [h.eq_withReceiver] at ht hwindow ⊢
  exact outcomesAgree_exec (fun _ hE => hE.withReceiver hs ht hwindow) (fun _ hf => absurd hf hs.exec_ne_fault)

end

/-- Settles O59: both states have valid parameters and the same schedule, and every path of a command has its counterpart. -/
theorem acceptInIdleStaysUnobservable : Obligations.AcceptInIdleStaysUnobservable := by
  intro s t hs ht h
  obtain ⟨-, -, -, -, -, hport, -⟩ := id h
  exact outcomesAgree_step (ht.params_valid.trans hs.params_valid.symm) hport h
    (fun c rest => (h.present c rest).putOut _)
    (fun c rest i => exec_sameButInIdle_agrees (hs.present c rest) (ht.present c rest) (h.present c rest) i)

/-! ### Runs -/

/-- Two runs whose states stay related, and whose related states have put out the same, put out the same. -/
theorem runs_related {R : State → State → Prop} (hout : ∀ {s t}, R s t → s.out = t.out)
    (hstep : ∀ {s t}, R s t → ∃ s' t', step s = .next s' ∧ step t = .next t' ∧ R s' t') (k : Nat) {s t : State}
    (h : R s t) :
    outputsOfRun k s = outputsOfRun k t ∧ ∃ s' t', runSteps k s = some s' ∧ runSteps k t = some t' ∧ R s' t' := by
  induction k generalizing s t with
  | zero => exact ⟨rfl, s, t, rfl, rfl, h⟩
  | succ k ih =>
    obtain ⟨s', t', hs, ht, h'⟩ := hstep h
    obtain ⟨houts, hrun⟩ := ih h'
    simp only [outputsOfRun, hs, ht, houts, hout h', runSteps_succ hs, runSteps_succ ht, true_and]
    exact hrun

/-- An open window belongs to a live block: SEND opens one on a live block only, and DEINIT abandons it (45_lifecycle.md R97). -/
theorem Effect.live_of_wait {i : Instr} {s t : State} (h : Effect i s t) (hs : s.mode = .wait → s.live = true)
    (hw : t.mode = .wait) : t.live = true := by
  cases h with
  | created r s hl => rfl
  | destroyed s hl => exact nomatch hw
  | notLive i s hl hi => exact hs hw
  | byte b s hl => exact (acceptOne_live b s).trans hl
  | burst bs s hl => exact (acceptBytes_live bs s).trans hl
  | _ => assumption

theorem step_live_of_wait {s t : State} (h : step s = .next t) (hs : s.mode = .wait → s.live = true)
    (hw : t.mode = .wait) : t.live = true := by
  obtain ⟨-, ⟨-, rfl⟩ | ⟨c, rest, -, ⟨i, -, hE⟩ | ⟨-, rfl⟩⟩⟩ := step_next_cases h
  · exact hs hw
  · exact hE.live_of_wait hs hw
  · exact hs hw

/-- What two runs from power-on keep that differ in ACCEPT_IN_IDLE. -/
structure State.IdleTwins (s t : State) : Prop where
  inv_left : s.Inv
  inv_right : t.Inv
  same : s.SameButInIdle t
  live_of_wait : s.mode = .wait → s.live = true

theorem State.IdleTwins.out_eq {s t : State} (h : s.IdleTwins t) : s.out = t.out := by
  obtain ⟨-, -, -, -, -, -, -, hout, -⟩ := h.same
  exact hout.symm

theorem State.IdleTwins.step {s t : State} (h : s.IdleTwins t) :
    ∃ s' t', step s = .next s' ∧ step t = .next t' ∧ s'.IdleTwins t' := by
  obtain ⟨s', hs⟩ := invariantStatesAlwaysStep s h.inv_left
  obtain ⟨t', ht⟩ := invariantStatesAlwaysStep t h.inv_right
  have hsame := acceptInIdleStaysUnobservable s t h.inv_left h.inv_right h.same
  rw [hs, ht] at hsame
  exact ⟨s', t', hs, ht, stepKeepsTheInvariant s s' h.inv_left hs, stepKeepsTheInvariant t t' h.inv_right ht, hsame,
    step_live_of_wait hs h.live_of_wait⟩

/-- Power-on leaves both blocks not live and in IDLE, so with no window (10_state.md R30). -/
theorem State.powerOn_idleTwins {p : Params} (hv : p.valid = true) (a : AcceptInIdle) (cmds : List HostCommand) :
    State.IdleTwins { State.powerOn p with port := cmds }
      { State.powerOn { p with acceptInIdle := a } with port := cmds } where
  inv_left := State.powerOn_inv hv
  inv_right := State.powerOn_inv (p := { p with acceptInIdle := a }) hv
  same := ⟨rfl, rfl, rfl, rfl, rfl, rfl, rfl, rfl, rfl, rfl, rfl, rfl, rfl, rfl, rfl, nofun⟩
  live_of_wait := nofun

/-- Settles O50: the two blocks are twins at power-on and stay so step by step (O59). -/
theorem acceptInIdleIsUnobservable : Obligations.AcceptInIdleIsUnobservable := by
  intro p cmds k hv
  have htwins := State.powerOn_idleTwins (p := { p with acceptInIdle := .append }) hv .drop cmds
  obtain ⟨houts, s', u', hs, hu, h⟩ := runs_related State.IdleTwins.out_eq State.IdleTwins.step k htwins
  obtain ⟨-, -, -, -, -, -, -, -, hlive, hrole, hmode, hreq, hstored, hslots, hactive, hwindow⟩ := h.same
  exact ⟨houts, s', u', hs, hu, hlive, hrole, hmode, hreq, hstored, hslots, hactive,
    fun hw => hwindow (h.live_of_wait hw) hw⟩

end Sys2Proof.Machine
end

section
/-! SUPPORT. The response decoder (43_decode_tick.md R79 to R85): what it answers for a short frame, for a bad CRC and for a good
frame, each as one equation. -/

namespace Sys2Proof.Machine

section
variable {q : Request} {bs : List Byte}

/-- The length guard (R80). -/
theorem decodeResponse_of_short (h : bs.length ≤ 4) :
    decodeResponse q bs = { blankResponse q with isTimeout := true, timeoutKind := .shortFrame } :=
  if_pos h

/-- The checksum guard (R81). -/
theorem decodeResponse_of_bad_crc (h : 4 < bs.length) (hcrc : crcOk bs = false) :
    decodeResponse q bs = { blankResponse q with isTimeout := true, timeoutKind := .checksumMismatch } := by
  rw [decodeResponse, if_neg h.not_ge, hcrc]
  rfl

/-- Classification writes three fields of the Response (R82, R83). -/
theorem classify_blankResponse :
    classify bs (blankResponse q) =
      { blankResponse q with
        payload := if bs.getD 1 0 = exceptionMarker then [] else slice bs 2 (bs.length - 2)
        isError := decide (bs.getD 1 0 = exceptionMarker)
        errorCode := if bs.getD 1 0 = exceptionMarker then bs.getD 2 0 else 0 } := by
  by_cases hf : bs.getD 1 0 = exceptionMarker
  · rw [classify, if_pos hf, if_pos hf, if_pos hf, decide_eq_true hf]
    rfl
  · rw [classify, if_neg hf, if_neg hf, if_neg hf, decide_eq_false hf]
    rfl

/-- The peer check raises the peer flag or leaves it (R85). -/
theorem peerCheck_eq {r : Response} (h : r.wrongPeer = false) :
    peerCheck q bs r = { r with wrongPeer := decide (bs.getD 0 0 ≠ q.addr) } := by
  by_cases hpeer : bs.getD 0 0 ≠ q.addr
  · rw [peerCheck, if_pos hpeer, decide_eq_true hpeer]
  · rw [peerCheck, if_neg hpeer, decide_eq_false hpeer, ← h]

/-- A frame that passes both guards is classified, then its peer is checked (R79). -/
theorem decodeResponse_of_good (h : 4 < bs.length) (hcrc : crcOk bs = true) :
    decodeResponse q bs =
      { blankResponse q with
        payload := if bs.getD 1 0 = exceptionMarker then [] else slice bs 2 (bs.length - 2)
        isError := decide (bs.getD 1 0 = exceptionMarker)
        errorCode := if bs.getD 1 0 = exceptionMarker then bs.getD 2 0 else 0
        wrongPeer := decide (bs.getD 0 0 ≠ q.addr) } := by
  rw [decodeResponse, if_neg h.not_ge, hcrc, classify_blankResponse]
  exact peerCheck_eq rfl

end

/-- Settles O39: the two guards, in their order. -/
theorem guardFailuresAreTimeouts : Obligations.GuardFailuresAreTimeouts :=
  fun _ _ => ⟨decodeResponse_of_short, decodeResponse_of_bad_crc⟩

/-- Settles O41: each of the decoder's three answers is `blankResponse` of the request but for its other fields. -/
theorem responsesCarryTheRequest : Obligations.ResponsesCarryTheRequest := by
  intro q bs
  by_cases hlen : bs.length ≤ 4
  · rw [decodeResponse_of_short hlen]
    exact ⟨rfl, rfl, rfl⟩
  · cases hcrc : crcOk bs with
    | false =>
      rw [decodeResponse_of_bad_crc (Nat.lt_of_not_le hlen) hcrc]
      exact ⟨rfl, rfl, rfl⟩
    | true =>
      rw [decodeResponse_of_good (Nat.lt_of_not_le hlen) hcrc]
      exact ⟨rfl, rfl, rfl⟩

/-- R83: between the two leading and the two trailing bytes lies the body. -/
theorem slice_body (a f lo hi : Byte) (body : List Byte) :
    slice (a :: f :: body ++ [lo, hi]) 2 ((a :: f :: body ++ [lo, hi]).length - 2) = body := by
  simp [slice]

/-- Settles O40: the equation of a good frame, its offsets 0 to 2 and its body read from the form of the frame. -/
theorem goodFramesAreClassified : Obligations.GoodFramesAreClassified := by
  intro q a f x lo hi rest hcrc
  have hlen : 4 < (a :: f :: x :: rest ++ [lo, hi]).length := by simp
  rw [decodeResponse_of_good hlen hcrc, slice_body a f lo hi (x :: rest)]
  rfl

end Sys2Proof.Machine
end

section
/-! SUPPORT. TICK and the end of a window (43_decode_tick.md R86 to R89): a block that meets the invariant finalizes with its request and
its held bytes, nothing else ends a window, and without an inbound byte the k-th TICK does. -/

namespace Sys2Proof.Machine

theorem State.deliveries_of_out {s : State} {o : Output} (h : s.out = some o) : s.deliveries = o.deliveries := by
  rw [State.deliveries, h]

section
variable {s : State} (hs : s.Inv) (hl : s.live = true)
include hs hl

theorem State.Inv.rxBytes_eq : s.rxBytes = some (s.rxBuf.take s.rxLen.toNat) := by
  obtain ⟨⟨-, hbuf, -⟩, hlive⟩ := hs
  obtain ⟨-, hlen, -⟩ := hlive hl
  exact State.rxBytes_of_shape hbuf hlen

/-- In WAIT a request is stored and the held bytes are readable, so a TICK at the threshold finalizes (R87). -/
theorem State.Inv.effect_finalized (hm : s.mode = .wait) (hf : s.Finalizes) :
    Effect .tick s (s.closeWindow.putOut ⟨.ok, [], (s.slots.filter (· ≠ 0)).map fun h =>
      deliver h (decodeResponse s.req (s.rxBuf.take s.rxLen.toNat))⟩) := by
  obtain ⟨hstored, -⟩ := hs.2 hl
  rw [← hs.dispatch_eq hl]
  exact .finalized _ s hl hm hf (hstored hm) (hs.rxBytes_eq hl)

end

/-- Settles O45: the four paths of TICK. -/
theorem tickCountsOrFinalizes : Obligations.TickCountsOrFinalizes := by
  refine fun s hs => ⟨fun hl => ?_, fun hl hm => ?_, fun hl hm hf => ?_, fun hl hm hf => ?_⟩
  · exact ⟨_, exec_of_effect (.notLive _ s hl nofun), s.sameElements_putOut _, rfl⟩
  · exact ⟨_, exec_of_effect (.idleTick s hl hm), s.sameElements_putOut _, rfl⟩
  · exact ⟨_, exec_of_effect (.counted s hl hm hf), toNat_add_one (State.idleTicks_lt_of_not_finalizes hf), rfl,
      s.sameElements_refl⟩
  · exact ⟨_, exec_of_effect (hs.effect_finalized hl hm hf), rfl, rfl, rfl, rfl, s.sameElements_refl⟩

/-- Settles O20: of the paths that begin in an open window only DEINIT and the finalizing TICK do not leave it open. -/
theorem onlyAFinalizeEndsAWindow : Obligations.OnlyAFinalizeEndsAWindow := by
  intro i s t hs hl hm h
  cases effect_of_exec h with
  | created r s hdead => exact nomatch hl.symm.trans hdead
  | notLive i s hdead hi => exact nomatch hl.symm.trans hdead
  | destroyed s _ => exact .inr (.inl ⟨rfl, rfl, rfl, rfl⟩)
  | sent a f r d s _ hg hidle => exact nomatch hm.symm.trans hidle
  | byte b s _ => exact .inl ⟨(acceptOne_live b s).trans hl, (acceptOne_mode b s).trans hm⟩
  | burst bs s _ =>
    obtain ⟨-, hlive, -, hmode, -⟩ := acceptBytes_frame bs s
    exact .inl ⟨hlive.trans hl, hmode.trans hm⟩
  | finalized bs s _ _ hf hq hb =>
    obtain rfl : s.rxBuf.take s.rxLen.toNat = bs := Option.some.inj ((hs.rxBytes_eq hl).symm.trans hb)
    exact .inr (.inr ⟨rfl, hl, rfl, hf, hs.dispatch_eq hl _⟩)
  | _ => exact .inl ⟨hl, hm⟩

/-- Settles O47: fewer than k TICKs only count, and the k-th closes the window (`runSteps_ticks_open`, `runSteps_window`). -/
theorem windowClosesAtTheKthTick : Obligations.WindowClosesAtTheKthTick := by
  refine fun s g rest hs hl hm hidle hp => ⟨fun j hpos hj => ?_, ?_⟩
  · have hzero : s.idleTicks.toNat = 0 := by rw [hidle]; rfl
    obtain ⟨n, hn⟩ := Nat.exists_eq_add_of_le hj.le
    rw [hn, ← List.replicate_append_replicate, presented_append, List.append_assoc] at hp
    obtain ⟨t, hrun, -, hcount, hnone, hsame⟩ := runSteps_ticks_open hs hl hm (by omega) hp
    obtain ⟨-, -, -, hmode, -⟩ := hsame
    exact ⟨t, hrun, hmode.trans hm, hnone hpos, by omega⟩
  · obtain ⟨t, hrun, hport, hclosed, hout⟩ := runSteps_window hs hl hm (hs.rxBytes_eq hl) hidle hp
    obtain ⟨-, -, -, hmode, -⟩ := hclosed
    exact ⟨t, hrun, hmode, hport, State.deliveries_of_out hout⟩

end Sys2Proof.Machine
end

section
/-! SUPPORT. The listener registry (44_registry.md R90 to R95): what its scans find, what its two commands can do and leave
unchanged, the reuse of a freed slot, and what a dispatch reaches. -/

namespace Sys2Proof.Machine

/-! ### The scans -/

theorem State.firstEmpty_eq_none_iff {s : State} : s.firstEmpty = none ↔ 0 ∉ s.slots := firstSlot_eq_none

/-- The scan of R91 finds nothing exactly when no slot below `active` holds the handler. -/
theorem State.firstMatch_eq_none_iff {s : State} {h : Handler} :
    s.firstMatch h = none ↔ ∀ j, j < s.active.toNat → s.slots[j]? ≠ some h := by
  simp [State.firstMatch, firstSlot_eq_none, List.mem_iff_getElem?, List.getElem?_take]

/-- The scan of R91 stops at the first slot that holds the handler, where that slot lies below `active`. -/
theorem State.firstMatch_of_first {s : State} {h : Handler} {i : Nat} (hlt : i < s.active.toNat) (hi : s.slots[i]? = some h)
    (hfirst : ∀ j, j < i → s.slots[j]? ≠ some h) : s.firstMatch h = some i := by
  refine firstSlot_eq_some.mpr ⟨(List.getElem?_take_of_lt hlt).trans hi, fun j hj => ?_⟩
  rw [List.getElem?_take_of_lt (hj.trans hlt)]
  exact hfirst j hj

/-! ### The two commands -/

section
variable {i : Instr} {h : Handler} {s t : State} (hi : i = .addListener h ∨ i = .removeListener h)
include hi

/-- Whatever path a registry command takes: it only reports, or it writes the slot its scan finds. -/
theorem Effect.registry_cases (hE : Effect i s t) :
    ∃ o, t = s.putOut o ∨ s.live = true ∧ h ≠ 0 ∧ ∃ k,
      (i = .addListener h ∧ s.firstEmpty = some k ∧ t = (s.fillSlot k h).putOut o) ∨
      (i = .removeListener h ∧ s.firstMatch h = some k ∧ t = (s.clearSlot k).putOut o) := by
  obtain rfl | rfl := hi
  · cases hE with
    | added h k s hl hne hk => exact ⟨_, .inr ⟨hl, hne, k, .inl ⟨rfl, hk, rfl⟩⟩⟩
    | _ => exact ⟨_, .inl rfl⟩
  · cases hE with
    | removed h k s hl hne hk => exact ⟨_, .inr ⟨hl, hne, k, .inr ⟨rfl, hk, rfl⟩⟩⟩
    | _ => exact ⟨_, .inl rfl⟩

/-- A registry command writes no element but the slots and `active` (R95). -/
theorem Effect.registry_frame (hE : Effect i s t) :
    s.SameElements { t with slots := s.slots, active := s.active } := by
  obtain ⟨o, rfl | ⟨-, -, k, ⟨-, -, rfl⟩ | ⟨-, -, rfl⟩⟩⟩ := hE.registry_cases hi
  all_goals exact s.sameElements_refl

/-- A registry command reads `live`, the slots and `active` only (R95). -/
theorem Effect.registry_congr {u : State} (hlive : u.live = s.live) (hslots : u.slots = s.slots)
    (hactive : u.active = s.active) (hE : Effect i s t) :
    ∃ v, Effect i u v ∧ v.slots = t.slots ∧ v.active = t.active ∧ v.out = t.out := by
  have hempty : u.firstEmpty = s.firstEmpty := by rw [State.firstEmpty, hslots, State.firstEmpty]
  have hmatch (x : Handler) : u.firstMatch x = s.firstMatch x := by
    rw [State.firstMatch, hslots, hactive, State.firstMatch]
  cases hE with
  | notLive i s hl hi => exact ⟨_, .notLive i u (hlive.trans hl) hi, hslots, hactive, rfl⟩
  | addedNull s hl => exact ⟨_, .addedNull u (hlive.trans hl), hslots, hactive, rfl⟩
  | tableFull x s hl hx hk => exact ⟨_, .tableFull x u (hlive.trans hl) hx (hempty.trans hk), hslots, hactive, rfl⟩
  | added x k s hl hx hk =>
    exact ⟨_, .added x k u (hlive.trans hl) hx (hempty.trans hk), by simp [hslots], by simp [hactive], rfl⟩
  | removedNull s hl => exact ⟨_, .removedNull u (hlive.trans hl), hslots, hactive, rfl⟩
  | notFound x s hl hx hk => exact ⟨_, .notFound x u (hlive.trans hl) hx ((hmatch x).trans hk), hslots, hactive, rfl⟩
  | removed x k s hl hx hk =>
    exact ⟨_, .removed x k u (hlive.trans hl) hx ((hmatch x).trans hk), by simp [hslots], by simp [hactive], rfl⟩
  | _ => simp at hi

end

/-- SEND, the receive commands and TICK write neither a slot nor `active` (R95). -/
theorem Effect.engine_keeps_registry {i : Instr} {s t : State}
    (hi : (∃ a f r d, i = .send a f r d) ∨ (∃ b, i = .acceptByte b) ∨ (∃ bs, i = .accept bs) ∨
      i = .resetParser ∨ i = .tick)
    (hE : Effect i s t) : t.slots = s.slots ∧ t.active = s.active := by
  cases hE with
  | byte b s hl => exact ⟨acceptOne_slots b s, acceptOne_active b s⟩
  | burst bs s hl =>
    obtain ⟨-, -, -, -, -, -, hslots, hactive, -⟩ := acceptBytes_frame bs s
    exact ⟨hslots, hactive⟩
  | created r s hl | destroyed s hl | added x k s hl hx hk | removed x k s hl hx hk => simp at hi
  | _ => exact ⟨rfl, rfl⟩

/-- Settles O23: the frame of the registry commands, their congruence in what they read (they never fault), and the frame of
the engine commands. -/
theorem registryAndEngineAreIndependent : Obligations.RegistryAndEngineAreIndependent := by
  refine ⟨fun h i s t hi hexec => ?_, fun h i s u hi hlive hslots hactive => ?_,
    fun i s t hexec hi => (effect_of_exec hexec).engine_keeps_registry hi⟩
  · obtain ⟨-, -, -, hmode, hidle, hreq, hstored, hbuf, hlen, -, -⟩ := (effect_of_exec hexec).registry_frame hi
    exact ⟨hmode, hreq, hstored, hbuf, hlen, hidle⟩
  · refine outcomesAgree_exec (fun t hE => hE.registry_congr hi hlive hslots hactive) fun f hf => ?_
    obtain ⟨rfl, -⟩ := exec_fault hf
    simp at hi

/-- Settles O56: a registry command that writes has a scan that finds the slot, in a live block with h ≠ 0; the write is a
`List.set` at that slot. -/
theorem registryCommandsFrame : Obligations.RegistryCommandsFrame := by
  intro h i s t hi hexec
  have hE := effect_of_exec hexec
  obtain ⟨-, hport, hclaim⟩ := hE.inputs_frame
  refine ⟨hE.registry_frame hi, hport, hclaim, ?_⟩
  obtain ⟨o, rfl | ⟨hl, hne, k, ⟨rfl, hk, rfl⟩ | ⟨rfl, hk, rfl⟩⟩⟩ := hE.registry_cases hi
  · exact ⟨rfl, fun _ _ _ => rfl, fun _ _ _ => rfl, fun _ => ⟨rfl, rfl⟩⟩
  · refine ⟨List.length_set, fun _ j hj => List.getElem?_set_ne fun hkj : k = j => hj (hkj ▸ hk), nofun, ?_⟩
    rintro (hdead | hz | ⟨-, hnone⟩ | ⟨⟨⟩, -⟩)
    exacts [(nomatch hl.symm.trans hdead), absurd hz hne, (nomatch hk.symm.trans hnone)]
  · refine ⟨List.length_set, nofun, fun _ j hj => List.getElem?_set_ne fun hkj : k = j => hj (hkj ▸ hk), ?_⟩
    rintro (hdead | hz | ⟨⟨⟩, -⟩ | ⟨-, hnone⟩)
    exacts [(nomatch hl.symm.trans hdead), absurd hz hne, (nomatch hk.symm.trans hnone)]

/-- The index of an empty slot is small enough for `active` to move past it without wrapping (10_state.md R25). -/
theorem State.Inv.firstEmpty_lt {s : State} (hs : s.Inv) {k : Nat} (hk : s.firstEmpty = some k) : k < 255 := by
  obtain ⟨⟨-, -, hslots⟩, -⟩ := hs
  have hlt : k < s.slots.length := firstSlot_lt hk
  omega

/-- Settles O51: the four paths of ADD_LISTENER; the three errors only put out. -/
theorem addListenerFillsTheFirstEmptySlot : Obligations.AddListenerFillsTheFirstEmptySlot := by
  refine fun h s hs => ⟨fun hl => ?_, fun hl hz => ?_, fun hl hne hfull => ?_, fun hl hne hroom => ?_⟩
  · exact ⟨_, exec_of_effect (.notLive _ s hl nofun), s.sameElements_putOut _, rfl⟩
  · subst hz
    exact ⟨_, exec_of_effect (.addedNull s hl), s.sameElements_putOut _, rfl⟩
  · exact ⟨_, exec_of_effect (.tableFull h s hl hne (State.firstEmpty_eq_none_iff.mpr hfull)), s.sameElements_putOut _, rfl⟩
  · obtain ⟨k, hk⟩ := Option.ne_none_iff_exists'.mp fun hnone => State.firstEmpty_eq_none_iff.mp hnone hroom
    obtain ⟨hempty, hfirst⟩ := firstSlot_eq_some.mp hk
    exact ⟨_, k, exec_of_effect (.added h k s hl hne hk), rfl, hempty, hfirst, List.getElem?_set_self (firstSlot_lt hk),
      fun j hj => List.getElem?_set_ne hj.symm, State.fillSlot_active_toNat (h := h) (hs.firstEmpty_lt hk), s.sameElements_refl⟩

/-- Settles O52: the four paths of REMOVE_LISTENER; the three errors only put out. -/
theorem removeListenerClearsTheFirstMatch : Obligations.RemoveListenerClearsTheFirstMatch := by
  refine fun h s _ => ⟨fun hl => ?_, fun hl hz => ?_, fun hl hne hnone => ?_, fun k hl hne hlt hk hfirst => ?_⟩
  · exact ⟨_, exec_of_effect (.notLive _ s hl nofun), s.sameElements_putOut _, rfl⟩
  · subst hz
    exact ⟨_, exec_of_effect (.removedNull s hl), s.sameElements_putOut _, rfl⟩
  · exact ⟨_, exec_of_effect (.notFound h s hl hne (State.firstMatch_eq_none_iff.mpr hnone)), s.sameElements_putOut _, rfl⟩
  · obtain ⟨hklen, -⟩ := List.getElem?_eq_some_iff.mp hk
    exact ⟨_, exec_of_effect (.removed h k s hl hne (State.firstMatch_of_first hlt hk hfirst)), rfl,
      List.getElem?_set_self hklen, fun j hj => List.getElem?_set_ne hj.symm, State.clearSlot_active_toNat,
      s.sameElements_refl⟩

/-! ### A full table -/

/-- In a full table `active` is past the last slot, so the scan of R91 sees every slot. -/
theorem State.Inv.firstMatch_of_full {s : State} (hs : s.Inv) (hl : s.live = true) (hfull : 0 ∉ s.slots) (h : Handler) :
    s.firstMatch h = firstSlot h s.slots := by
  obtain ⟨-, -, -, -, hempty⟩ := hs.2 hl
  have hdrop : s.slots.drop s.active.toNat = [] := List.eq_nil_iff_forall_not_mem.mpr fun x hx =>
    hfull (hempty x hx ▸ List.mem_of_mem_drop hx)
  rw [State.firstMatch, List.take_of_length_le (List.drop_eq_nil_iff.mp hdrop)]

/-- Clearing a slot of a full table makes that slot the first empty slot. -/
theorem State.firstEmpty_clearSlot {s : State} {k : Nat} (hfull : 0 ∉ s.slots) (hk : k < s.slots.length) :
    (s.clearSlot k).firstEmpty = some k := by
  refine firstSlot_eq_some.mpr ⟨List.getElem?_set_self hk, fun j hj hzero => hfull ?_⟩
  rw [State.clearSlot_slots, List.getElem?_set_ne hj.ne'] at hzero
  exact List.mem_of_getElem? hzero

/-- Filling the slot just cleared below `active` moves the boundary back to where it was. -/
theorem State.fillSlot_clearSlot_active {s : State} {k : Nat} (hk : k < s.active.toNat) (g : Handler) :
    ((s.clearSlot k).fillSlot k g).active = s.active := by
  have hmax := s.active.isLt
  refine BitVec.eq_of_toNat_eq ?_
  rw [State.fillSlot_active_toNat (by omega), State.clearSlot_active_toNat]
  split_ifs <;> omega

/-- Settles O53: the freed slot is the first empty one, so ADD_LISTENER overwrites what REMOVE_LISTENER cleared. -/
theorem freedSlotIsReused : Obligations.FreedSlotIsReused := by
  intro s h g hs hl hfull hmem hg
  have hne : h ≠ 0 := fun hz => hfull (hz ▸ hmem)
  have hnoroom := State.firstEmpty_eq_none_iff.mpr hfull
  refine ⟨⟨_, exec_of_effect (.tableFull g s hl hg hnoroom), s.sameElements_putOut _, rfl⟩, ?_⟩
  obtain ⟨k, hk⟩ := Option.ne_none_iff_exists'.mp fun hnone => firstSlot_eq_none.mp hnone hmem
  rw [← hs.firstMatch_of_full hl hfull] at hk
  obtain ⟨hlt, hslot, -⟩ := State.firstMatch_eq_some hk
  obtain ⟨hklen, -⟩ := List.getElem?_eq_some_iff.mp hslot
  have hremove := Effect.removed h k s hl hne hk
  have hadd := Effect.added g k ((s.clearSlot k).putOut ⟨.ok, [], []⟩) hl hg (State.firstEmpty_clearSlot hfull hklen)
  exact ⟨_, k, (execAll_cons_of_effect hremove _).trans (execAll_cons_of_effect hadd []), rfl, hslot,
    List.set_set _, State.fillSlot_clearSlot_active hlt g⟩

/-! ### Dispatch -/

/-- Settles O46: below `active` lies every occupied slot (`State.Inv.dispatch_eq`), and of all paths only the finalizing TICK
delivers. -/
theorem dispatchReachesEveryOccupiedSlotOnce : Obligations.DispatchReachesEveryOccupiedSlotOnce := by
  refine ⟨fun r s hs hl => ⟨hs.dispatch_eq hl r, ?_⟩, fun i s t hexec hdel => ?_⟩
  · obtain ⟨-, -, hslots⟩ := hs.1
    rw [hs.dispatch_eq hl, List.length_map, ← hslots]
    exact List.length_filter_le _ _
  · cases effect_of_exec hexec with
    | finalized bs s hl hm hf hq hb => exact ⟨rfl, hl, hm⟩
    | _ => exact absurd rfl hdel

end Sys2Proof.Machine
end

section
/-! SUPPORT. The instance lifecycle (45_lifecycle.md): the elements INIT leaves without a value, and the pair DEINIT, INIT. -/

namespace Sys2Proof.Machine

/-- `req` holds no value until the first SEND after INIT (R96). -/
theorem State.create_holdsValue_req (r : Role) (s : State) : (s.create r).holdsValue .req = false := rfl

/-- `rx_len` is 0 after INIT, so no buffer byte holds a value (R96). -/
theorem State.create_holdsValue_rxBuf (r : Role) (s : State) (i : Nat) : (s.create r).holdsValue (.rxBuf i) = false := rfl

/-- DEINIT and then INIT run through `State.destroy` and `State.create`: the first leaves `live` = 0, so the second creates. -/
theorem execAll_deinit_init {s : State} (hl : s.live = true) (r : Role) :
    execAll [.deinit, .init r] s = .next (((s.destroy.putOut ⟨.ok, [], []⟩).create r).putOut ⟨.ok, [], []⟩) := by
  have hinit := Effect.created r (s.destroy.putOut ⟨.ok, [], []⟩) s.destroy_live
  rw [execAll_cons_of_effect (.destroyed s hl), execAll_cons_of_effect hinit, execAll_nil]

/-- Settles O26: the two paths of INIT, by the value of `live`. -/
theorem initCreatesTheInstance : Obligations.InitCreatesTheInstance := by
  refine fun r s => ⟨fun hl => ?_, fun hl => ?_⟩
  · exact ⟨_, exec_of_effect (.created r s hl), rfl, rfl, rfl, rfl, rfl, rfl, rfl, s.create_holdsValue_req r,
      s.create_holdsValue_rxBuf r, rfl, rfl⟩
  · exact ⟨_, exec_of_effect (.alreadyLive r s hl), s.sameElements_putOut _, rfl⟩

/-- Settles O27: the two paths of DEINIT, by the value of `live`; the mode plays no part, and a block that is not live holds no
value. -/
theorem deinitDestroysTheInstance : Obligations.DeinitDestroysTheInstance := by
  refine fun s => ⟨fun hl => ?_, fun hl => ?_⟩
  · exact ⟨_, exec_of_effect (.destroyed s hl), s.destroy_live, State.holdsValue_of_not_live s.destroy_live, rfl, rfl⟩
  · exact ⟨_, exec_of_effect (.notLive .deinit s hl nofun), s.sameElements_putOut _, rfl⟩

/-- Settles O28: what INIT writes depends on the destroyed state through MAX_LISTENERS alone. -/
theorem deinitThenInitForgetsTheInstance : Obligations.DeinitThenInitForgetsTheInstance := by
  intro r s hl
  exact ⟨_, execAll_deinit_init hl r, rfl, rfl, rfl, rfl, rfl, rfl, fun _ => List.eq_of_mem_replicate,
    List.length_replicate, State.create_holdsValue_req r _⟩

end Sys2Proof.Machine
end

section
/-! SUPPORT. The result codes (60_exceptions.md R99 to R111): which code a command returns, and that a command which returns an error
only reports it. -/

namespace Sys2Proof.Machine

/-- Settles O7: the static-block equation of `step`. -/
theorem stepWithoutACommandChangesNothing : Obligations.StepWithoutACommandChangesNothing :=
  fun _ hv hp => step_of_port_nil hv hp

/-- Settles O11: the `live` check of R102 comes first in every command but INIT, and it only puts out. -/
theorem notInitialisedCommandsChangeNothing : Obligations.NotInitialisedCommandsChangeNothing :=
  ⟨fun _ s hl hi => ⟨_, exec_of_not_live hl hi, s.sameElements_putOut _, rfl⟩, rfl⟩

/-! ### Errors -/

@[simp] theorem State.result_putOut (s : State) (o : Output) : (s.putOut o).result = some o.result := rfl

/-- Whatever path ends in an error only reports it (R100); its interactions are none, or those of a denied or a busy SEND. -/
theorem Effect.error_cases {i : Instr} {s t : State} (h : Effect i s t) (herr : t.result ≠ some .ok) :
    ∃ code ints, t = s.putOut ⟨code, ints, []⟩ ∧
      (ints = [] ∨ (∃ a f r d, i = .send a f r d) ∧
        (code = .transmitDenied ∧ ints = [.claim] ∨ code = .engineBusy ∧ ints = [.claim, .release])) := by
  cases h with
  | alreadyLive | notLive | addedNull | tableFull | removedNull | notFound => exact ⟨_, _, rfl, .inl rfl⟩
  | denied a f r d => exact ⟨_, _, rfl, .inr ⟨⟨a, f, r, d, rfl⟩, .inl ⟨rfl, rfl⟩⟩⟩
  | busy a f r d => exact ⟨_, _, rfl, .inr ⟨⟨a, f, r, d, rfl⟩, .inr ⟨rfl, rfl⟩⟩⟩
  | _ => exact absurd rfl herr

/-- R100 for one command, read off the two forms of `Effect.error_cases`. -/
theorem Effect.error_precise {i : Instr} {s t : State} (h : Effect i s t) (herr : t.result ≠ some .ok) :
    s.SameElements t ∧ t.transmits = false ∧ t.deliveries = [] ∧
      (t.interactions ≠ [] → (∃ a f r d, i = .send a f r d) ∧
        (t.result = some .transmitDenied ∧ t.interactions = [.claim] ∨
          t.result = some .engineBusy ∧ t.interactions = [.claim, .release])) := by
  obtain ⟨code, ints, rfl, rfl | ⟨hsend, ⟨rfl, rfl⟩ | ⟨rfl, rfl⟩⟩⟩ := h.error_cases herr
  · exact ⟨s.sameElements_putOut _, rfl, rfl, fun hne => absurd rfl hne⟩
  · exact ⟨s.sameElements_putOut _, rfl, rfl, fun _ => ⟨hsend, .inl ⟨rfl, rfl⟩⟩⟩
  · exact ⟨s.sameElements_putOut _, rfl, rfl, fun _ => ⟨hsend, .inr ⟨rfl, rfl⟩⟩⟩

theorem State.sameElements_present (s : State) (c : HostCommand) (rest : List HostCommand) :
    s.SameElements (s.present c rest) :=
  s.sameElements_refl

/-- Settles O17: a command by `Effect.error_precise`; a step runs its command, or reports an illegal word, in the presented state,
which has the same elements. -/
theorem errorsArePrecise : Obligations.ErrorsArePrecise := by
  refine ⟨fun i s t h herr => (effect_of_exec h).error_precise herr, fun c rest s t hp h herr => ?_⟩
  obtain ⟨-, ⟨hnil, -⟩ | ⟨c', rest', -, ⟨i, -, hE⟩ | ⟨-, rfl⟩⟩⟩ := step_next_cases h
  · exact absurd (hp.symm.trans hnil) (List.cons_ne_nil c rest)
  · obtain ⟨hsame, hquiet, hnone, -⟩ := hE.error_precise herr
    exact ⟨(s.sameElements_present c' rest').trans hsame, hquiet, hnone⟩
  · exact ⟨(s.sameElements_present c' rest').trans (State.sameElements_putOut _ _), rfl, rfl⟩

/-! ### Priorities -/

/-- What a scan finds is in the list it scans. -/
theorem mem_of_firstSlot {h : Handler} {l : List Handler} {i : Nat} (e : firstSlot h l = some i) : h ∈ l :=
  List.mem_of_getElem? (firstSlot_eq_some.mp e).1

/-- Settles O18: the guards of each path of `Effect` decide the chain of its command; the two scans find a slot exactly when the
handler is in the list they scan. -/
theorem resultCodesFollowThePriorities : Obligations.ResultCodesFollowThePriorities := by
  intro i s t hexec
  cases effect_of_exec hexec with
  | notLive i s hl hi =>
    cases i with
    | init r => exact absurd rfl (hi r)
    | _ => simp [hl]
  | tableFull h s hl hne hnone =>
    have hfull : 0 ∉ s.slots := State.firstEmpty_eq_none_iff.mp hnone
    simp only [State.result_putOut, hl, hne, hfull, reduceCtorEq, if_false]
  | added h k s hl hne hk =>
    have hroom : 0 ∈ s.slots := mem_of_firstSlot hk
    simp only [State.result_putOut, hl, hne, hroom, reduceCtorEq, if_true, if_false]
  | notFound h s hl hne hnone =>
    have habsent : h ∉ s.slots.take s.active.toNat := firstSlot_eq_none.mp hnone
    simp only [State.result_putOut, hl, hne, habsent, reduceCtorEq, if_false]
  | removed h k s hl hne hk =>
    have hfound : h ∈ s.slots.take s.active.toNat := mem_of_firstSlot hk
    simp only [State.result_putOut, hl, hne, hfound, reduceCtorEq, if_true, if_false]
  | _ => simp [*]

end Sys2Proof.Machine
end

section
/-! SUPPORT. The block's own request frame as a reply (70_reset_and_hazards.md R129): a built frame passes the checksum guard (R66) and
has the form of a good frame, so the decoder's equation for good frames applies to it. -/

namespace Sys2Proof.Machine

/-- What the decoder answers for the frame of the request it is held against: the register address and the data word are the body, and
the leading byte is the request's own address (R67, R82, R83, R85). -/
theorem decodeResponse_build (q : Request) :
    decodeResponse q (build q) =
      { blankResponse q with
        payload := if q.func = 0x86 then [] else bigEndian q.reg ++ bigEndian q.data
        isError := decide (q.func = 0x86)
        errorCode := if q.func = 0x86 then q.reg.extractLsb' 8 8 else 0 } := by
  obtain ⟨-, hcrc⟩ := appendedCrcPassesTheGuard
  have hpeer : decide (q.addr ≠ q.addr) = false := decide_eq_false (not_not_intro rfl)
  have hclassified := goodFramesAreClassified q q.addr q.func (q.reg.extractLsb' 8 8) _ _
    (q.reg.extractLsb' 0 8 :: bigEndian q.data) (hcrc q)
  rw [hpeer] at hclassified
  exact hclassified

/-- Settles O44: the fields of `decodeResponse_build`, in the two cases of the function byte. -/
theorem echoDecodesAsAReply : Obligations.EchoDecodesAsAReply := by
  intro q
  rw [decodeResponse_build]
  refine ⟨rfl, rfl, fun hf => ?_, fun hf => ?_⟩
  · exact ⟨decide_eq_false hf, if_neg hf⟩
  · exact ⟨decide_eq_true hf, if_pos hf⟩

end Sys2Proof.Machine
end

section
/-! SUPPORT. The faults of a finalize (10_state.md R31): no stored request, or fewer buffer bytes than `rx_len` says. -/

namespace Sys2Proof.Machine

section
variable {s : State}

/-- The held bytes are not readable when `rx_len` exceeds the bytes there are. -/
theorem State.rxBytes_eq_none (h : s.rxBuf.length < s.rxLen.toNat) : s.rxBytes = none :=
  if_neg h.not_ge

theorem finalize_of_no_request (hq : s.reqValid = false) : finalize s = .fault (.noValue .req) := by
  rw [finalize, hq]
  rfl

theorem finalize_of_missing_byte (hq : s.reqValid = true) (h : s.rxBuf.length < s.rxLen.toNat) :
    finalize s = .fault (.noValue (.rxBuf s.rxBuf.length)) := by
  rw [finalize, hq, State.rxBytes_eq_none h]
  rfl

end

/-- Settles O16: at the threshold TICK finalizes, whichever TICK_FINALIZE holds, and a finalize tests `req` before the buffer. -/
theorem readingNoValueFaults : Obligations.ReadingNoValueFaults := by
  intro s hl hm hthreshold
  have htick : exec .tick s = finalize s := exec_tick_of_finalizes hl hm (.inl (BitVec.le_def.mp hthreshold))
  rw [htick]
  exact ⟨finalize_of_no_request, finalize_of_missing_byte⟩

end Sys2Proof.Machine
end

section
/-! SUPPORT. Blocks side by side (60_exceptions.md R118): what `stepBlock` answers, by the outcome of the named block's own step. -/

namespace Sys2Proof.Machine

section
variable {k : Nat} {bs : List State} {s : State} (hk : bs[k]? = some s)
include hk

/-- A next state takes the place of the block that stepped. -/
theorem stepBlock_of_next {t : State} (h : step s = .next t) : stepBlock k bs = .next (bs.set k t) := by
  simp only [stepBlock, hk, h]

theorem stepBlock_of_fault {f : Fault} (h : step s = .fault f) : stepBlock k bs = .fault f := by
  simp only [stepBlock, hk, h]

theorem stepBlock_of_refused {r : Refusal} (h : step s = .refused r) : stepBlock k bs = .refused r := by
  simp only [stepBlock, hk, h]

end

/-- Settles O25: a next state is written at place k of the list, so place k holds it and every other place what it held. -/
theorem blocksShareNothing : Obligations.BlocksShareNothing := by
  intro k bs s hk
  refine ⟨fun t h => ⟨bs.set k t, stepBlock_of_next hk h, ?_, ?_⟩, fun _ => stepBlock_of_fault hk,
    fun _ => stepBlock_of_refused hk⟩
  · obtain ⟨hlt, -⟩ := List.getElem?_eq_some_iff.mp hk
    exact List.getElem?_set_self hlt
  · exact fun j hj => List.getElem?_set_ne hj.symm

end Sys2Proof.Machine
end
